-- ==== Sys2Proof/Word.lean ====
section
/-! DEFINITION. The word types of the codec. Every width is the spec's: 16-bit data words and
device registers, 20-bit command words, 8-bit bus bytes and pointers, 3-bit gain codes
(R6, R10, R16, R21). -/

namespace Sys2Proof

/-- A data word of the codec, a device register of the chip: 16 bits (R6, R21). -/
abbrev Word := BitVec 16

/-- A command word on the command port: 20 bits (R35). -/
abbrev Cmd := BitVec 20

/-- One byte on the two-wire bus, and the pointer byte of the chip (R21, R24). -/
abbrev Byte := BitVec 8

/-- A gain code: 3 bits, of which 0 to 5 are gain settings (R10, R44). -/
abbrev GainCode := BitVec 3

end Sys2Proof
end

