-- ==== Sys2Proof/Machine/Bits.lean ====
section
/-! DEFINITION. The notation of R8 on 16-bit words, and the byte order of R24. -/

namespace Sys2Proof.Machine

/-- `lsl_16(v, n)`: bits shifted out at the top are discarded (R8). -/
def lsl16 (v : Word) (n : Nat) : Word := v <<< n

/-- `lsr_16(v, n)`: zeros enter at the top (R8). -/
def lsr16 (v : Word) (n : Nat) : Word := v >>> n

/-- `toInt16(v)`: the two's complement integer of a word (R8). -/
def toInt16 (v : Word) : Int := if v.getLsbD 15 then (v.toNat : Int) - 65536 else v.toNat

/-- `fromInt16(n)`, the inverse of `toInt16` on -32768 to 32767 (R8). -/
def fromInt16 (z : Int) : Word := BitVec.ofInt 16 z

/-- `asr_16(v, n)`, the floor of a division: used only in derived laws (R8). -/
def asr16 (v : Word) (n : Nat) : Word := fromInt16 (Int.fdiv (toInt16 v) (2 ^ n))

/-- `zext_16` of a gain code (R8). -/
def zext16 (g : GainCode) : Word := g.setWidth 16

/-- `splitBytes(v)`: the first byte on the bus is the most significant one (R24). -/
def splitBytes (v : Word) : Byte × Byte := (v.extractLsb' 8 8, v.extractLsb' 0 8)

/-- `joinBytes(b0, b1)`: `b0` is the first byte received (R24). -/
def joinBytes (b0 b1 : Byte) : Word := b0 ++ b1

end Sys2Proof.Machine
end

