-- ==== Sys2Proof/Config.lean ====
section
/-! DEFINITION. What an implementation fixes (R6) and the values the spec leaves open.
A constant without a body is a free value: nothing in Lean can evaluate it, so whatever is proved
holds for every value it may have. The values the spec does give (the layout of R41, the policy
`fault` of R60) are in Machine/Layout.lean. -/

namespace Sys2Proof

/-- The chip family, that is the legal values of the parameter `SHIFT`: 4 or 0 and nothing else
(R6, R11; conflict C6). -/
inductive Family where
  /-- 12-bit family, `SHIFT = 4` -/
  | family12
  /-- 16-bit family, `SHIFT = 0` -/
  | family16
  deriving DecidableEq, Repr, Inhabited

/-- The two legal values of `CMP_CHANNEL_POLICY` (R6, R60). -/
inductive CmpChannelPolicy where
  | fault
  | legacyUnset
  deriving DecidableEq, Repr, Inhabited

/-- A contiguous range of bits of the configuration word: its lowest bit and its width. -/
structure BitRange where
  lo : Nat
  width : Nat
  deriving DecidableEq, Repr

/-- `CFG_LAYOUT`: the bit range of each of the nine sub-fields of the configuration word, and the
codes the codec puts there (R40, R41). The code of the `PGA` field is the gain code itself (R44). -/
structure CfgLayout where
  os    : BitRange
  mux   : BitRange
  pga   : BitRange
  mode  : BitRange
  dr    : BitRange
  cmode : BitRange
  cpol  : BitRange
  clat  : BitRange
  cque  : BitRange
  muxCh0 : Nat
  muxCh1 : Nat
  muxCh2 : Nat
  muxCh3 : Nat
  muxPair01 : Nat
  muxPair23 : Nat
  osStart : Nat
  osNoEffect : Nat
  modeSingle : Nat
  modeContinuous : Nat
  dr1600 : Nat
  cmodeTraditional : Nat
  cpolActiveLow : Nat
  clatNonLatching : Nat
  clatLatching : Nat
  cqueNone : Nat
  cqueFirstMatch : Nat
  deriving DecidableEq, Repr

/-- The build parameters the codec's commands read (R6, R18). They are not state (R11). -/
structure Params where
  family : Family
  layout : CfgLayout
  cmpChannelPolicy : CmpChannelPolicy
  deriving DecidableEq, Repr

/-- What the chip is doing, as the spec lets the host know it (R29): idle; converting one reading,
`elapsed` milliseconds of waiting after the configuration write that started it; or converting
continuously until reconfigured. -/
inductive Phase where
  | idle
  | single (elapsed : Nat)
  | continuous
  deriving DecidableEq, Repr, Inhabited

/-- `SHIFT` of the codec built, as its family. The spec gives no value for this hardware: "named
parameter, the model takes it as an argument" (R6). -/
opaque Config.family : Family

/-- `CONV_LATENCY_MS`, OPEN (R6, D21). Only the host's wait and the chip's readiness read it. -/
opaque Config.convLatencyMs : Nat

/-- `DEV_ADDR`, OPEN (R6, D25). Only the bus transactions name it. -/
opaque Config.devAddr : Nat

/-- The chip's answer to the `n`-th draw, for a conversion register read that keeps the conversion
wait (R107), or that is made in continuous mode at any time (DESIGN CHOICE, log entry 20): an oracle,
any 16-bit value (N16; D22 for a failed bus transfer). -/
opaque Config.conversionResult : Nat → Word

/-- The `n`-th 16-bit draw under no law: a conversion register read made too early or before any
configuration word (R29, U6, U10), a chip register after a power cycle (R30). -/
opaque Config.freeWord : Nat → Word

/-- The `n`-th draw of a pointer byte: the chip's pointer after a power cycle (R30). -/
opaque Config.freeByte : Nat → Byte

/-- The `n`-th draw of a chip phase: after a power cycle, and after a configuration word that is
single-shot without the start flag, which no rule describes (R29, U15). -/
opaque Config.freePhase : Nat → Phase

/-- The `n`-th draw of a truth value: whether a latched alert survives a configuration write (R115),
and whether one is latched after a power cycle of the chip (R30). -/
opaque Config.freeBool : Nat → Bool

end Sys2Proof
end

