-- ==== Sys2Proof/Syntax.lean ====
section
/-! DEFINITION. The command set CODEC-1: one constructor per row of spec/opcode_table.json
(R3, R37), with its operand as R38 reads it. -/

namespace Sys2Proof

/-- The nine commands of CODEC-1. -/
inductive Instr where
  /-- `BUILD.SE c` (R56): the channel is the natural number `unsigned(arg)` (R38) -/
  | buildSe (c : Nat)
  /-- `BUILD.D01` (R57) -/
  | buildD01
  /-- `BUILD.D23` (R58) -/
  | buildD23
  /-- `BUILD.CMP c` (R59): the channel is the natural number `unsigned(arg)` (R38) -/
  | buildCmp (c : Nat)
  /-- `DECODE raw` (R67) -/
  | decode (raw : Word)
  /-- `DECODEU raw` (R68) -/
  | decodeU (raw : Word)
  /-- `ENCTHR t` (R74): the 16-bit pattern of the signed threshold (R38) -/
  | encThr (t : Word)
  /-- `SETGAIN g` (R78) -/
  | setGain (g : GainCode)
  /-- `GETGAIN` (R79) -/
  | getGain
  deriving DecidableEq, Repr

end Sys2Proof
end

