-- ==== Sys2Proof/WellFormed.lean ====
section
/-! DEFINITION. Which terms of `Instr` a command word can hold: a channel is `unsigned(arg)` of a
16-bit operand, 0 to 65535 (R38). The other operands are bit vectors of the operand's own width.
Whether a channel or a gain code is VALID is no matter of form: the command checks it (R39). -/

namespace Sys2Proof

/-- The instruction's operands fit the fields of the command word (R36, R38). -/
def WellFormed (i : Instr) : Bool :=
  match i with
  | .buildSe c => decide (c < 65536)
  | .buildD01 => true
  | .buildD23 => true
  | .buildCmp c => decide (c < 65536)
  | .decode _ => true
  | .decodeU _ => true
  | .encThr _ => true
  | .setGain _ => true
  | .getGain => true

end Sys2Proof
end

