-- ==== Sys2Proof/Decode.lean ====
section
/-! DEFINITION. The decoder of command words, total on all 2^20 words and rejecting by name, and
the encoder, both written from R35 to R38 and R50. -/

namespace Sys2Proof

/-- Why a word is no command (R50). Both reasons raise the one fault `IllegalCommand` (R89). -/
inductive DecodeReject where
  /-- `op` is 0x0 or 0xA to 0xF -/
  | reservedOpcode (op : BitVec 4)
  /-- a must-be-zero part of the operand field is not zero -/
  | strayOperand (op : BitVec 4) (arg : Word)
  deriving DecidableEq, Repr

/-- `op = cmd[19:16]` (R36). -/
def opField (w : Cmd) : BitVec 4 := w.extractLsb' 16 4

/-- `arg = cmd[15:0]` (R36). -/
def argField (w : Cmd) : Word := w.extractLsb' 0 16

/-- A command that takes no operand: `arg` must be zero or the word is illegal (R38). -/
def withoutOperand (w : Cmd) (i : Instr) : Except DecodeReject Instr :=
  if argField w = 0 then .ok i else .error (.strayOperand (opField w) (argField w))

/-- `SETGAIN`: `g = arg[2:0]`, and `arg[15:3]` must be zero (R38). -/
def setGainOperand (w : Cmd) : Except DecodeReject Instr :=
  if (argField w).extractLsb' 3 13 = 0 then .ok (.setGain ((argField w).extractLsb' 0 3))
  else .error (.strayOperand (opField w) (argField w))

/-- The decoder (R37, R39): the opcode map first, no check of an operand's value. -/
def decode (w : Cmd) : Except DecodeReject Instr :=
  match (opField w).toNat with
  | 1 => .ok (.buildSe (argField w).toNat)
  | 2 => withoutOperand w .buildD01
  | 3 => withoutOperand w .buildD23
  | 4 => .ok (.buildCmp (argField w).toNat)
  | 5 => .ok (.decode (argField w))
  | 6 => .ok (.decodeU (argField w))
  | 7 => .ok (.encThr (argField w))
  | 8 => setGainOperand w
  | 9 => withoutOperand w .getGain
  | _ => .error (.reservedOpcode (opField w))

/-- The word of an opcode and an operand field, format `CMD20` (R36). -/
def cmdWord (op : BitVec 4) (arg : Word) : Cmd := op ++ arg

/-- The encoder (R37, R38). -/
def encode (i : Instr) : Cmd :=
  match i with
  | .buildSe c => cmdWord 0x1 (BitVec.ofNat 16 c)
  | .buildD01 => cmdWord 0x2 0
  | .buildD23 => cmdWord 0x3 0
  | .buildCmp c => cmdWord 0x4 (BitVec.ofNat 16 c)
  | .decode raw => cmdWord 0x5 raw
  | .decodeU raw => cmdWord 0x6 raw
  | .encThr t => cmdWord 0x7 t
  | .setGain g => cmdWord 0x8 (g.setWidth 16)
  | .getGain => cmdWord 0x9 0

/-- A row of the opcode table: a word `w` selects it when `w & mask = pattern` (R37). -/
structure OpcodeRow where
  mnemonic : String
  pattern : Cmd
  mask : Cmd
  deriving DecidableEq, Repr

/-- The nine rows, as R37 and spec/opcode_table.json print them. -/
def opcodeTable : List OpcodeRow :=
  [⟨"BUILD.SE", 0x10000, 0xF0000⟩, ⟨"BUILD.D01", 0x20000, 0xFFFFF⟩,
   ⟨"BUILD.D23", 0x30000, 0xFFFFF⟩, ⟨"BUILD.CMP", 0x40000, 0xF0000⟩,
   ⟨"DECODE", 0x50000, 0xF0000⟩, ⟨"DECODEU", 0x60000, 0xF0000⟩,
   ⟨"ENCTHR", 0x70000, 0xF0000⟩, ⟨"SETGAIN", 0x80000, 0xFFFF8⟩,
   ⟨"GETGAIN", 0x90000, 0xFFFFF⟩]

/-- The row of the opcode table an instruction stands for. -/
def rowOf (i : Instr) : OpcodeRow :=
  match i with
  | .buildSe _ => ⟨"BUILD.SE", 0x10000, 0xF0000⟩
  | .buildD01 => ⟨"BUILD.D01", 0x20000, 0xFFFFF⟩
  | .buildD23 => ⟨"BUILD.D23", 0x30000, 0xFFFFF⟩
  | .buildCmp _ => ⟨"BUILD.CMP", 0x40000, 0xF0000⟩
  | .decode _ => ⟨"DECODE", 0x50000, 0xF0000⟩
  | .decodeU _ => ⟨"DECODEU", 0x60000, 0xF0000⟩
  | .encThr _ => ⟨"ENCTHR", 0x70000, 0xF0000⟩
  | .setGain _ => ⟨"SETGAIN", 0x80000, 0xFFFF8⟩
  | .getGain => ⟨"GETGAIN", 0x90000, 0xFFFFF⟩

/-- A word selects a row (R37). -/
def OpcodeRow.selectedBy (r : OpcodeRow) (w : Cmd) : Bool := w &&& r.mask == r.pattern

/-- The 20 lines of the command port, given the `nbits` low bits of a number. -/
def portWord (nbits w : Nat) : Cmd := BitVec.ofNat 20 (w % 2 ^ nbits)

/-- What the decoder reads from the instruction whose bits are `w` (bits above `nbits` zero). -/
def decodeTableWord (nbits w : Nat) : Option Instr :=
  match decode (portWord nbits w) with
  | .ok i => some i
  | .error _ => none

end Sys2Proof
end

