-- ==== Sys2Proof/Machine/State.lean ====
section
/-! DEFINITION. The state of the machine as plain data: the codec's one register (R10); the command
port, which is the host's pending events and the responses given (R16, R117); the converter chip as
the host sees it (R21, R28 to R30); the bus; and the host's results. -/

namespace Sys2Proof.Machine

/-- The status `st` of a response (R16, R84). -/
inductive Status where
  | ok
  | invalidChannel
  | invalidGain
  | illegalCommand
  deriving DecidableEq, Repr

/-- The three faults of the codec (R83). They are no stop of the machine: the command ends with a
response and the next one runs (R86, R90). -/
inductive CodecFault where
  /-- `BUILD.SE`, `BUILD.CMP` with a channel above 3 (R85) -/
  | invalidChannel
  /-- `SETGAIN` with code 6 or 7 (R87) -/
  | invalidGain
  /-- the decoder, on a word that matches no row (R89) -/
  | illegalCommand
  deriving DecidableEq, Repr

/-- The answer to one command event (R16). -/
structure Response where
  res : Word
  st : Status
  deriving DecidableEq, Repr

/-- The four registers of the converter chip (R21, R22). -/
inductive ChipRegister where
  | conversion
  | config
  | lowThreshold
  | highThreshold
  deriving DecidableEq, Repr

/-- The converter chip, as far as the spec describes it: four 16-bit registers behind a pointer
(R21), what it is doing (R29), whether a comparator alert is latched (R28), and whether a
configuration word has been written since its power came up (R30, R104). -/
structure Chip where
  pointer : Byte
  conversion : Word
  config : Word
  lowThreshold : Word
  highThreshold : Word
  phase : Phase
  alertLatched : Bool
  configured : Bool
  deriving DecidableEq, Repr

/-- One call of a transport primitive or of the timing collaborator (R25, R26, R95). -/
inductive BusOp where
  | beginTransaction (addr : Nat)
  | writeByte (b : Byte)
  | endTransaction
  | requestBytes (addr : Nat) (n : Nat)
  | readByte (b : Byte)
  | waitMilliseconds (ms : Nat)
  deriving DecidableEq, Repr

/-- The public operations of the host's session (R54, R109 to R113). -/
inductive SessionOp where
  | readSingleEnded (channel : Word)
  | readDifferential01
  | readDifferential23
  | getLastConversionResults
  | startComparatorSingleEnded (channel : Word) (threshold : Word)
  | setGain (g : GainCode)
  | getGain
  deriving DecidableEq, Repr

/-- The two causes of a reset of the codec (R101). -/
inductive ResetCause where
  | powerApplied
  | rst
  deriving DecidableEq, Repr

/-- One event of the world outside the codec (R7, R116, R117): a command word on the port, a reset,
a bus access or a wait of the host, a whole session operation, and the two things the chip does on
its own that the spec mentions, latching an alert (R28) and losing power (R30). -/
inductive HostEvent where
  | command (w : Cmd)
  | reset (cause : ResetCause)
  | regWrite (ptr : Byte) (v : Word)
  | regRead (ptr : Byte)
  | wait (ms : Nat)
  | session (op : SessionOp)
  | alertLatches
  | chipPowerCycle
  deriving DecidableEq, Repr

/-- What an access or a session operation gives back to its caller (R26, R109 to R113). -/
inductive Returned where
  /-- the 16-bit value of a single `RegRead` -/
  | raw (v : Word)
  /-- `readSingleEnded`: an unsigned sample -/
  | unsignedSample (n : Nat)
  /-- the differential reads and `getLastConversionResults`: a signed sample -/
  | signedSample (z : Int)
  /-- `getGain` -/
  | gain (v : Word)
  /-- `startComparatorSingleEnded`, `setGain`: nothing -/
  | nothing
  deriving DecidableEq, Repr

/-- The state. `gain` is the codec's only architectural state (R10); the other fields are the
host, the bus and the chip around it, and `draws`, the model's own count of free values taken. -/
structure State where
  /-- `GAIN` (R10) -/
  gain : GainCode
  /-- the events still to come, first one first: the host's run (R117) -/
  inbox : List HostEvent
  /-- the responses given so far, oldest first (R16, R117) -/
  responses : List Response
  /-- the converter chip -/
  chip : Chip
  /-- what crossed the bus, and the waits, oldest first (R25, R26) -/
  bus : List BusOp
  /-- what accesses and session operations gave back, oldest first -/
  returned : List Returned
  /-- how many draws of free values have been made -/
  draws : Nat
  deriving DecidableEq, Repr

/-- There is no way for this machine to stop with a fault: "Nothing in the spec is treated as
`stuck`: every command word has a response and every reachable state accepts every next event"
(93 Part 1). The codec's own faults are responses (`CodecFault`). Safe: nothing is left out. -/
inductive Fault where
  deriving DecidableEq, Repr

/-- Why a step gives no meaning. No command of the codec answers with one. -/
inductive Refusal where
  /-- Raised by nothing in this model: every command has its meaning. Safe. -/
  | notModelled (mnemonic : String)
  /-- Raised by a host access whose pointer byte is 0x04 to 0xFF: "a host model must refuse them"
  (R22, U16). Safe. -/
  | noSuchRegister (ptr : Byte)
  /-- Raised by a host read of the config or a threshold register: "A host model must not offer
  `RegRead(0x01)`" (R27), U10 for the other two. Safe. -/
  | readNotOffered (r : ChipRegister)
  deriving DecidableEq, Repr

/-- The chip in `State.reset`. The spec gives none of these values (R30, N16).
DESIGN CHOICE: zero, idle, no alert, not configured; log entry 3. -/
def Chip.atReset : Chip :=
  { pointer := 0, conversion := 0, config := 0, lowThreshold := 0, highThreshold := 0,
    phase := .idle, alertLatched := false, configured := false }

/-- The machine right after reset: `GAIN = 0` (R19, R100), no event pending, nothing answered,
nothing on the bus. -/
def State.reset : State :=
  { gain := 0, inbox := [], responses := [], chip := Chip.atReset, bus := [], returned := [],
    draws := 0 }

end Sys2Proof.Machine
end

