-- ==== Sys2Proof/Machine/Flags.lean ====
section
/-! DEFINITION. The codec has no flag (R15). What stands in their place is the status `st` of a
response: its two bits (R84) and which fault gives which status (R83). -/

namespace Sys2Proof.Machine

/-- The two bits of `st` (R84). -/
def statusCode (st : Status) : BitVec 2 :=
  match st with
  | .ok => 0b00
  | .invalidChannel => 0b01
  | .invalidGain => 0b10
  | .illegalCommand => 0b11

/-- The status the two bits stand for: all four values are used (R84). -/
def statusOfCode (b : BitVec 2) : Status :=
  match b.toNat with
  | 0 => .ok
  | 1 => .invalidChannel
  | 2 => .invalidGain
  | _ => .illegalCommand

/-- The status of a fault (R83). -/
def faultStatus (f : CodecFault) : Status :=
  match f with
  | .invalidChannel => .invalidChannel
  | .invalidGain => .invalidGain
  | .illegalCommand => .illegalCommand

end Sys2Proof.Machine
end

