-- ==== Sys2Proof/Machine/Layout.lean ====
section
/-! DEFINITION. The configuration word: how a layout places codes in bit ranges (R40, R42), which
layouts are admissible (R40), the layout this hardware takes (R41) and its parameters (R6). -/

namespace Sys2Proof

namespace Machine

/-- A code in the bit range of a field, zeros elsewhere (R42). -/
def placeField (r : BitRange) (code : Nat) : Word := BitVec.ofNat 16 (code % 2 ^ r.width) <<< r.lo

/-- The code a word holds in a bit range: the inverse of R42. -/
def readField (r : BitRange) (w : Word) : Nat := (w >>> r.lo).toNat % 2 ^ r.width

/-- The mask of a bit range (R43). -/
def fieldMask (r : BitRange) : Word := placeField r (2 ^ r.width - 1)

/-- Two bit ranges share no bit (R40). -/
abbrev disjointRanges (a b : BitRange) : Prop := a.lo + a.width ≤ b.lo ∨ b.lo + b.width ≤ a.lo

/-- The nine bit ranges of a layout (R40). -/
def layoutRanges (L : CfgLayout) : List BitRange :=
  [L.os, L.mux, L.pga, L.mode, L.dr, L.cmode, L.cpol, L.clat, L.cque]

/-- Each field with the codes the codec puts there, the `PGA` field with the gain codes (R41, R44). -/
def layoutCodes (L : CfgLayout) : List (BitRange × List Nat) :=
  [(L.os, [L.osStart, L.osNoEffect]),
   (L.mux, [L.muxCh0, L.muxCh1, L.muxCh2, L.muxCh3, L.muxPair01, L.muxPair23]),
   (L.pga, [0, 1, 2, 3, 4, 5]),
   (L.mode, [L.modeSingle, L.modeContinuous]),
   (L.dr, [L.dr1600]),
   (L.cmode, [L.cmodeTraditional]),
   (L.cpol, [L.cpolActiveLow]),
   (L.clat, [L.clatNonLatching, L.clatLatching]),
   (L.cque, [L.cqueNone, L.cqueFirstMatch])]

/-- What "Any `CFG_LAYOUT` must satisfy" (R40) and R6 ask of a layout: ranges inside 16 bits, no two
sharing a bit, every code inside its field, and pairwise distinct codes for the four channels. -/
abbrev LayoutLegal (L : CfgLayout) : Prop :=
  (∀ r ∈ layoutRanges L, r.lo + r.width ≤ 16) ∧
  (layoutRanges L).Pairwise disjointRanges ∧
  (∀ f ∈ layoutCodes L, ∀ c ∈ f.2, c < 2 ^ f.1.width) ∧
  [L.muxCh0, L.muxCh1, L.muxCh2, L.muxCh3].Pairwise (· ≠ ·)

/-- The six input selections (R45). -/
inductive InputSel where
  | ch (c : Fin 4)
  | pair01
  | pair23
  deriving DecidableEq, Repr

/-- The two profiles (R46). -/
inductive Profile where
  /-- a plain single-shot read -/
  | read
  /-- arming the comparator in continuous conversion -/
  | cmpArm
  deriving DecidableEq, Repr

/-- `muxCode(sel)` (R45). -/
def muxCode (L : CfgLayout) (sel : InputSel) : Nat :=
  match sel with
  | .ch 0 => L.muxCh0
  | .ch 1 => L.muxCh1
  | .ch 2 => L.muxCh2
  | .ch 3 => L.muxCh3
  | .pair01 => L.muxPair01
  | .pair23 => L.muxPair23

/-- Start-conversion flag of a profile (R46). -/
def osCode (L : CfgLayout) (p : Profile) : Nat :=
  match p with
  | .read => L.osStart
  | .cmpArm => L.osNoEffect

/-- Operating mode of a profile (R46). -/
def modeCode (L : CfgLayout) (p : Profile) : Nat :=
  match p with
  | .read => L.modeSingle
  | .cmpArm => L.modeContinuous

/-- Comparator latch of a profile (R46). -/
def clatCode (L : CfgLayout) (p : Profile) : Nat :=
  match p with
  | .read => L.clatNonLatching
  | .cmpArm => L.clatLatching

/-- Comparator queue of a profile (R46). -/
def cqueCode (L : CfgLayout) (p : Profile) : Nat :=
  match p with
  | .read => L.cqueNone
  | .cmpArm => L.cqueFirstMatch

/-- `profileConst(p)`: the part of the word a profile fixes, the constant data rate, polarity and
comparator mode with it (R46, R47, R55). -/
def profileConst (L : CfgLayout) (p : Profile) : Word :=
  placeField L.os (osCode L p) ||| placeField L.mode (modeCode L p) ||| placeField L.dr L.dr1600 |||
  placeField L.cmode L.cmodeTraditional ||| placeField L.cpol L.cpolActiveLow |||
  placeField L.clat (clatCode L p) ||| placeField L.cque (cqueCode L p)

/-- `buildConfig(g, sel, p)`: OR of the profile, the multiplexer field and the gain field (R55). -/
def buildConfig (L : CfgLayout) (g : GainCode) (sel : InputSel) (p : Profile) : Word :=
  profileConst L p ||| placeField L.mux (muxCode L sel) ||| placeField L.pga g.toNat

/-- The `legacy_unset` word: the comparator profile with no multiplexer bit set (R59, R60). -/
def unsetMuxConfig (L : CfgLayout) (g : GainCode) : Word :=
  profileConst L .cmpArm ||| placeField L.pga g.toNat

/-- `cfgPack`: the nine codes one beside the other, in the layout of R41 (R42). -/
def cfgPack (os : BitVec 1) (mux pga : BitVec 3) (mode : BitVec 1) (dr : BitVec 3)
    (cmode cpol clat : BitVec 1) (cque : BitVec 2) : Word :=
  os ++ mux ++ pga ++ mode ++ dr ++ cmode ++ cpol ++ clat ++ cque

/-- The layout of R41, the configuration register of the ADS1015/ADS1115 family. -/
def ads1x15Layout : CfgLayout :=
  { os := ⟨15, 1⟩, mux := ⟨12, 3⟩, pga := ⟨9, 3⟩, mode := ⟨8, 1⟩, dr := ⟨5, 3⟩, cmode := ⟨4, 1⟩,
    cpol := ⟨3, 1⟩, clat := ⟨2, 1⟩, cque := ⟨0, 2⟩,
    muxCh0 := 0b100, muxCh1 := 0b101, muxCh2 := 0b110, muxCh3 := 0b111,
    muxPair01 := 0b000, muxPair23 := 0b011,
    osStart := 1, osNoEffect := 0, modeSingle := 1, modeContinuous := 0, dr1600 := 0b100,
    cmodeTraditional := 0, cpolActiveLow := 0, clatNonLatching := 0, clatLatching := 1,
    cqueNone := 0b11, cqueFirstMatch := 0b00 }

end Machine

/-- `CMP_CHANNEL_POLICY`: "value for this hardware: `fault`" (R6, R60). -/
def Config.cmpChannelPolicy : CmpChannelPolicy := .fault

/-- The parameters of the codec built (R6): the family is open, the layout and the policy are the
ones the spec takes. -/
def Config.params : Params :=
  { family := Config.family, layout := Machine.ads1x15Layout,
    cmpChannelPolicy := Config.cmpChannelPolicy }

end Sys2Proof
end

