-- ==== Sys2Proof/Machine/Operands.lean ====
section
/-! DEFINITION. Operand checks and operand readings of the commands (R38, R44, R53). -/

namespace Sys2Proof.Machine

/-- The channel check of `BUILD.SE` and `BUILD.CMP`: only 0, 1, 2, 3 are channels (R38, R56). -/
def channelOf (c : Nat) : Option (Fin 4) := if h : c < 4 then some ⟨c, h⟩ else none

/-- The gain check of `SETGAIN`: `unsigned(arg[2:0]) > 5` is no gain (R78). -/
def gainValid (g : GainCode) : Bool := decide (g.toNat ≤ 5)

/-- `SHIFT` (R6): 4 or 0. -/
def shiftWidth (f : Family) : Nat :=
  match f with
  | .family12 => 4
  | .family16 => 0

/-- The full-scale range of a gain code in millivolts, both signs (R44). A label: no command reads
it. -/
def fullScaleMilliVolts (g : GainCode) : Option Nat :=
  match g.toNat with
  | 0 => some 6144
  | 1 => some 4096
  | 2 => some 2048
  | 3 => some 1024
  | 4 => some 512
  | 5 => some 256
  | _ => none

/-- The amplifier gain of a gain code as a fraction, numerator and denominator (R44). A label. -/
def amplifierGain (g : GainCode) : Option (Nat × Nat) :=
  match g.toNat with
  | 0 => some (2, 3)
  | 1 => some (1, 1)
  | 2 => some (2, 1)
  | 3 => some (4, 1)
  | 4 => some (8, 1)
  | 5 => some (16, 1)
  | _ => none

end Sys2Proof.Machine
end

