-- ==== Sys2Proof/Machine/Ops.lean ====
section
/-! DEFINITION. The named operations over the state: one update per field, answering a command,
raising a fault (the one shared operation of R86), and going on after an outcome. -/

namespace Sys2Proof.Machine

/-- The outcome of a step or of a part of one. -/
abbrev Out := Host.Outcome State Fault Refusal

/-- Go on from a next state; a stop stays a stop. -/
def andThen (o : Out) (k : State → Out) : Out :=
  match o with
  | .next s => k s
  | .fault f => .fault f
  | .refused r => .refused r

/-- `GAIN <- g` (R9, R10). -/
def State.withGain (s : State) (g : GainCode) : State := { s with gain := g }

/-- The events still to come. -/
def State.withInbox (s : State) (es : List HostEvent) : State := { s with inbox := es }

/-- One more response on the command port (R16). -/
def State.answer (s : State) (r : Response) : State := { s with responses := s.responses ++ [r] }

/-- The chip in another state. -/
def State.withChip (s : State) (c : Chip) : State := { s with chip := c }

/-- More calls of transport primitives or waits (R25, R26). -/
def State.logBus (s : State) (ops : List BusOp) : State := { s with bus := s.bus ++ ops }

/-- A value given back to the caller of an access or a session operation. -/
def State.giveBack (s : State) (v : Returned) : State := { s with returned := s.returned ++ [v] }

/-- `n` more draws of free values taken. -/
def State.draw (s : State) (n : Nat) : State := { s with draws := s.draws + n }

/-- The first response after those `s` has already given: what the host that issued a command from
`s` receives. -/
def State.answerAfter (t s : State) : Option Response := t.responses[s.responses.length]?

/-- `respond(v)`: the command ends normally (R9). -/
def respond (v : Word) (s : State) : Out := .next (s.answer ⟨v, .ok⟩)

/-- `raise f`: fault entry (R86). No state is written, the response is `0x0000` with the status of
the fault, nothing is saved and control goes nowhere. There is no return from it: the next command
event runs from the same state (R90). -/
def raiseFault (f : CodecFault) (s : State) : Out := .next (s.answer ⟨0x0000, faultStatus f⟩)

/-- A command that computes a result or a fault and writes no state. -/
def finish (r : Except CodecFault Word) (s : State) : Out :=
  match r with
  | .ok v => respond v s
  | .error f => raiseFault f s

/-- Reset of the codec: `GAIN = 0b000` and nothing else (R100, R102). -/
def resetCodec (s : State) : State := s.withGain 0

end Sys2Proof.Machine
end

