-- ==== Sys2Proof/Machine/Chip.lean ====
section
/-! DEFINITION. The converter chip as the host sees it (R21 to R30): its register space, what starts
and ends a conversion, and the side effect of reading the conversion register. Nothing of its analog
side is here (R5). -/

namespace Sys2Proof.Machine

/-- The register a pointer byte selects; 0x04 to 0xFF select nothing (R22). -/
def registerOf (ptr : Byte) : Option ChipRegister :=
  match ptr.toNat with
  | 0 => some .conversion
  | 1 => some .config
  | 2 => some .lowThreshold
  | 3 => some .highThreshold
  | _ => none

/-- The pointer byte of a register (R22). -/
def pointerOf (r : ChipRegister) : Byte :=
  match r with
  | .conversion => 0x00
  | .config => 0x01
  | .lowThreshold => 0x02
  | .highThreshold => 0x03

/-- What a register holds. -/
def chipRegister (c : Chip) (r : ChipRegister) : Word :=
  match r with
  | .conversion => c.conversion
  | .config => c.config
  | .lowThreshold => c.lowThreshold
  | .highThreshold => c.highThreshold

/-- The phase after a configuration word is written (R29): continuous mode converts until
reconfigured; single-shot with the start flag converts one reading; a single-shot word without the
start flag, which the codec never emits, leaves a free phase. -/
def phaseAfterConfig (L : CfgLayout) (v : Word) (draw : Nat) : Phase :=
  if readField L.mode v = L.modeContinuous then .continuous
  else if readField L.os v = L.osStart then .single 0
  else Config.freePhase draw

/-- The chip takes a configuration word: the register, the phase, and a latched alert that the word
may or may not clear (R115: not in any source). -/
def chipConfigure (L : CfgLayout) (v : Word) (draw : Nat) (c : Chip) : Chip :=
  { c with config := v, phase := phaseAfterConfig L v draw, configured := true,
           alertLatched := c.alertLatched && Config.freeBool draw }

/-- A 16-bit register written: "the device register selected by `ptr` holds `v`" (R25). The pointer
byte of the transaction selects it (R21). -/
def chipWrite (L : CfgLayout) (r : ChipRegister) (v : Word) (draw : Nat) (c : Chip) : Chip :=
  match r with
  | .conversion => { c with pointer := pointerOf r, conversion := v }
  | .config => chipConfigure L v draw { c with pointer := pointerOf r }
  | .lowThreshold => { c with pointer := pointerOf r, lowThreshold := v }
  | .highThreshold => { c with pointer := pointerOf r, highThreshold := v }

/-- Whether a conversion register read is one the host may rely on: a configuration word has been
written since power-up (R104), and a single-shot conversion has had its latency (R29, R107).
DESIGN CHOICE: in continuous mode a read is settled at once, however early after the configuration
write; R29 and U6 speak of single-shot readings only and N16 gives nothing (log entry 20). -/
def chipSettled (latency : Nat) (c : Chip) : Bool :=
  c.configured &&
    match c.phase with
    | .single elapsed => decide (latency ≤ elapsed)
    | .idle => true
    | .continuous => true

/-- The value the chip gives for its conversion register: an oracle's answer, or any value at all
when the read is too early (R29, N16). -/
def conversionAnswer (latency : Nat) (c : Chip) (draw : Nat) : Word :=
  if chipSettled latency c then Config.conversionResult draw else Config.freeWord draw

/-- Reading the conversion register clears a latched alert (R28). DESIGN CHOICE: the field
`conversion` then holds the value the read answered; the spec does not say what the register holds
between accesses (R29, N16; log entry 19). -/
def chipReadConversion (v : Word) (c : Chip) : Chip :=
  { c with pointer := pointerOf .conversion, conversion := v, alertLatched := false }

/-- `ms` milliseconds of waiting at the chip: a single-shot conversion is over once the latency has
passed (R29); a continuous one goes on. DESIGN CHOICE: the field `conversion` keeps its value during
a conversion and past its end, until a read draws the answer; R29 and N16 leave the register's
content open (log entry 19). -/
def chipWait (latency ms : Nat) (c : Chip) : Chip :=
  match c.phase with
  | .single elapsed =>
    { c with phase := if latency ≤ elapsed + ms then .idle else .single (elapsed + ms) }
  | .idle => c
  | .continuous => c

/-- The chip latches a comparator alert; when it does so is in no source (U17). -/
def chipLatchAlert (c : Chip) : Chip := { c with alertLatched := true }

/-- The chip after a power cycle: "holds no configuration", values not given (R30). -/
def chipAfterPowerCycle (draw : Nat) : Chip :=
  { pointer := Config.freeByte draw, conversion := Config.freeWord draw,
    config := Config.freeWord (draw + 1), lowThreshold := Config.freeWord (draw + 2),
    highThreshold := Config.freeWord (draw + 3), phase := Config.freePhase draw,
    alertLatched := Config.freeBool draw, configured := false }

end Sys2Proof.Machine
end

