-- ==== Sys2Proof/Machine/Bus.lean ====
section
/-! DEFINITION. The host's two transactions and its wait (R24 to R28, R31, R95). -/

namespace Sys2Proof.Machine

/-- The transport calls of `RegWrite(ptr, v)`, most significant byte first (R25). -/
def regWriteOps (ptr : Byte) (v : Word) : List BusOp :=
  [.beginTransaction Config.devAddr, .writeByte ptr, .writeByte (splitBytes v).1,
   .writeByte (splitBytes v).2, .endTransaction]

/-- The transport calls of `RegRead(ptr)` when the chip answers `v` (R26). -/
def regReadOps (ptr : Byte) (v : Word) : List BusOp :=
  [.beginTransaction Config.devAddr, .writeByte ptr, .endTransaction,
   .requestBytes Config.devAddr 2, .readByte (splitBytes v).1, .readByte (splitBytes v).2]

/-- `RegWrite(ptr, v)` (R25): the chip joins the two bytes it receives. One draw is taken for what a
configuration word leaves open. -/
def regWrite (ptr : Byte) (v : Word) (s : State) : Out :=
  match registerOf ptr with
  | none => .refused (.noSuchRegister ptr)
  | some r =>
    .next (((s.logBus (regWriteOps ptr v)).withChip
      (chipWrite Config.params.layout r (joinBytes (splitBytes v).1 (splitBytes v).2) s.draws
        s.chip)).draw 1)

/-- The state after the conversion register has been read and has answered `v` (R26, R28). -/
def afterRegRead (v : Word) (s : State) : State :=
  ((s.logBus (regReadOps (pointerOf .conversion) v)).withChip (chipReadConversion v s.chip)).draw 1

/-- `RegRead(ptr)` (R26): `k` goes on with the value received. Only the conversion register is
offered (R27, U10). -/
def regRead (ptr : Byte) (s : State) (k : Word → State → Out) : Out :=
  match registerOf ptr with
  | none => .refused (.noSuchRegister ptr)
  | some .conversion =>
    let v := conversionAnswer Config.convLatencyMs s.chip s.draws
    k (joinBytes (splitBytes v).1 (splitBytes v).2) (afterRegRead v s)
  | some .config => .refused (.readNotOffered .config)
  | some .lowThreshold => .refused (.readNotOffered .lowThreshold)
  | some .highThreshold => .refused (.readNotOffered .highThreshold)

/-- `Wait(ms)`: the host blocks; time passes at the chip (R95, R107). -/
def waitMs (ms : Nat) (s : State) : State :=
  (s.logBus [.waitMilliseconds ms]).withChip (chipWait Config.convLatencyMs ms s.chip)

end Sys2Proof.Machine
end

