-- ==== Sys2Proof/Machine/Gain.lean ====
section
/-! DEFINITION. Gain access: `SETGAIN`, `GETGAIN` (R78, R79). -/

namespace Sys2Proof.Machine

/-- `SETGAIN g` (R78): codes 6 and 7 are refused, any other is written and echoed. -/
def execSetGain (g : GainCode) (s : State) : Out :=
  if gainValid g then respond (zext16 g) (s.withGain g) else raiseFault .invalidGain s

/-- `GETGAIN` (R79). -/
def execGetGain (s : State) : Out := respond (zext16 s.gain) s

end Sys2Proof.Machine
end

