-- ==== Sys2Proof/Machine/Packer.lean ====
section
/-! DEFINITION. The configuration-word packer: `BUILD.SE`, `BUILD.D01`, `BUILD.D23`, `BUILD.CMP`
(R55 to R60). -/

namespace Sys2Proof.Machine

/-- `BUILD.SE c` as a function of the layout and the gain (R56). -/
def singleEndedWord (p : Params) (g : GainCode) (c : Nat) : Except CodecFault Word :=
  match channelOf c with
  | some ch => .ok (buildConfig p.layout g (.ch ch) .read)
  | none => .error .invalidChannel

/-- `BUILD.CMP c` as a function of the parameters and the gain, both policies (R59, R60). -/
def cmpArmWord (p : Params) (g : GainCode) (c : Nat) : Except CodecFault Word :=
  match channelOf c, p.cmpChannelPolicy with
  | some ch, _ => .ok (buildConfig p.layout g (.ch ch) .cmpArm)
  | none, .fault => .error .invalidChannel
  | none, .legacyUnset => .ok (unsetMuxConfig p.layout g)

/-- `BUILD.SE c` (R56). -/
def execBuildSe (c : Nat) (s : State) : Out := finish (singleEndedWord Config.params s.gain c) s

/-- `BUILD.D01` (R57). -/
def execBuildD01 (s : State) : Out :=
  respond (buildConfig Config.params.layout s.gain .pair01 .read) s

/-- `BUILD.D23` (R58). -/
def execBuildD23 (s : State) : Out :=
  respond (buildConfig Config.params.layout s.gain .pair23 .read) s

/-- `BUILD.CMP c` (R59). -/
def execBuildCmp (c : Nat) (s : State) : Out := finish (cmpArmWord Config.params s.gain c) s

end Sys2Proof.Machine
end

