-- ==== Sys2Proof/Machine/Threshold.lean ====
section
/-! DEFINITION. The threshold packer: `ENCTHR` (R73, R74). -/

namespace Sys2Proof.Machine

/-- `encodeThreshold(t, w)` (R73): a left shift; what does not fit is shifted out (D11). -/
def encodeThreshold (f : Family) (t : Word) : Word := lsl16 t (shiftWidth f)

/-- `ENCTHR t` (R74). -/
def execEncThr (t : Word) (s : State) : Out := respond (encodeThreshold Config.params.family t) s

end Sys2Proof.Machine
end

