-- ==== Sys2Proof/Machine/Unpacker.lean ====
section
/-! DEFINITION. The sample unpacker: `DECODE`, `DECODEU` (R65 to R68). Neither reads `GAIN`
(conflict C1). -/

namespace Sys2Proof.Machine

/-- `decodeSample(raw, w)` (R65): logical shift, then the sign bits if bit 11 is set and the width
is not zero (which C6 reads as "equal to 4"). -/
def decodeSample (f : Family) (raw : Word) : Word :=
  let shifted := lsr16 raw (shiftWidth f)
  if shiftWidth f ≠ 0 ∧ shifted.getLsbD 11 = true then shifted ||| 0xF000 else shifted

/-- `decodeUnsigned(raw, w)` (R66): the shift alone. -/
def decodeUnsigned (f : Family) (raw : Word) : Word := lsr16 raw (shiftWidth f)

/-- `DECODE raw` (R67). -/
def execDecode (raw : Word) (s : State) : Out := respond (decodeSample Config.params.family raw) s

/-- `DECODEU raw` (R68). -/
def execDecodeU (raw : Word) (s : State) : Out :=
  respond (decodeUnsigned Config.params.family raw) s

end Sys2Proof.Machine
end

