-- ==== Sys2Proof/Machine/Dispatch.lean ====
section
/-! DEFINITION. One arm per command of CODEC-1 (R37). -/

namespace Sys2Proof.Machine

def exec (i : Instr) (s : State) : Host.Outcome State Fault Refusal :=
  match i with
  | .buildSe c => Sys2Proof.Machine.execBuildSe c s
  | .buildD01 => Sys2Proof.Machine.execBuildD01 s
  | .buildD23 => Sys2Proof.Machine.execBuildD23 s
  | .buildCmp c => Sys2Proof.Machine.execBuildCmp c s
  | .decode raw => Sys2Proof.Machine.execDecode raw s
  | .decodeU raw => Sys2Proof.Machine.execDecodeU raw s
  | .encThr t => Sys2Proof.Machine.execEncThr t s
  | .setGain g => Sys2Proof.Machine.execSetGain g s
  | .getGain => Sys2Proof.Machine.execGetGain s

end Sys2Proof.Machine
end

