-- ==== Sys2Proof/Machine/Port.lean ====
section
/-! DEFINITION. A command event on the command port (R16, R39): decoding comes first; a word that
matches no row raises `IllegalCommand` (R89). -/

namespace Sys2Proof.Machine

/-- One command event: the word is decoded and its command executed, or the decoder raises. -/
def command (w : Cmd) (s : State) : Out :=
  match decode w with
  | .ok i => exec i s
  | .error _ => raiseFault .illegalCommand s

/-- `(res, st) <- issue(X)`: the host sends the command and goes on with its response. A host that
has no response goes on waiting for it (R116); every command has one (R16). -/
def issue (i : Instr) (s : State) (k : Response → State → Out) : Out :=
  andThen (command (encode i) s) fun t =>
    match t.answerAfter s with
    | some r => k r t
    | none => .next t

end Sys2Proof.Machine
end

