-- ==== Sys2Proof/Machine/Session.lean ====
section
/-! DEFINITION. The host's session operations: sequences of codec commands, bus transactions and
waits (R109 to R113). Each runs without another user of the bus interleaving (R114), so one step
runs one whole operation. -/

namespace Sys2Proof.Machine

/-- Write a configuration word, wait the conversion latency, read the conversion register: "The host
must keep the order" (R107). -/
def configureAndRead (cfg : Word) (s : State) (k : Word → State → Out) : Out :=
  andThen (regWrite (pointerOf .config) cfg s) fun t =>
    regRead (pointerOf .conversion) (waitMs Config.convLatencyMs t) k

/-- Unpack a raw value with `DECODEU` and give back the unsigned sample (R109). -/
def giveUnsigned (raw : Word) (s : State) : Out :=
  issue (.decodeU raw) s fun r t => .next (t.giveBack (.unsignedSample r.res.toNat))

/-- Unpack a raw value with `DECODE` and give back the signed sample (R110). -/
def giveSigned (raw : Word) (s : State) : Out :=
  issue (.decode raw) s fun r t => .next (t.giveBack (.signedSample (toInt16 r.res)))

/-- `readSingleEnded(channel)` (R109): an invalid channel gives 0 and no transaction. -/
def readSingleEnded (channel : Word) (s : State) : Out :=
  issue (.buildSe channel.toNat) s fun cfg t =>
    if cfg.st = .invalidChannel then .next (t.giveBack (.unsignedSample 0))
    else configureAndRead cfg.res t giveUnsigned

/-- `readDifferential_0_1()` (R110). -/
def readDifferential01 (s : State) : Out :=
  issue .buildD01 s fun cfg t => configureAndRead cfg.res t giveSigned

/-- `readDifferential_2_3()` (R110). -/
def readDifferential23 (s : State) : Out :=
  issue .buildD23 s fun cfg t => configureAndRead cfg.res t giveSigned

/-- `getLastConversionResults()` (R111): waits, writes no configuration word. -/
def getLastConversionResults (s : State) : Out :=
  regRead (pointerOf .conversion) (waitMs Config.convLatencyMs s) giveSigned

/-- `startComparatorSingleEnded(channel, threshold)` (R112): the threshold goes to the
high-threshold register before the configuration word; nothing is written after a fault. -/
def startComparatorSingleEnded (channel threshold : Word) (s : State) : Out :=
  issue (.buildCmp channel.toNat) s fun cfg t =>
    if cfg.st = .invalidChannel then .next (t.giveBack .nothing)
    else
      issue (.encThr threshold) t fun thr u =>
        andThen (regWrite (pointerOf .highThreshold) thr.res u) fun v =>
          andThen (regWrite (pointerOf .config) cfg.res v) fun x => .next (x.giveBack .nothing)

/-- `setGain(gain)` (R113): no transaction. -/
def sessionSetGain (g : GainCode) (s : State) : Out :=
  issue (.setGain g) s fun _ t => .next (t.giveBack .nothing)

/-- `getGain()` (R113). -/
def sessionGetGain (s : State) : Out :=
  issue .getGain s fun r t => .next (t.giveBack (.gain r.res))

/-- A session operation, by name. -/
def runSession (op : SessionOp) (s : State) : Out :=
  match op with
  | .readSingleEnded channel => readSingleEnded channel s
  | .readDifferential01 => readDifferential01 s
  | .readDifferential23 => readDifferential23 s
  | .getLastConversionResults => getLastConversionResults s
  | .startComparatorSingleEnded channel threshold => startComparatorSingleEnded channel threshold s
  | .setGain g => sessionSetGain g s
  | .getGain => sessionGetGain s

end Sys2Proof.Machine
end

