-- ==== Sys2Proof/Machine/Events.lean ====
section
/-! DEFINITION. What one event of the world outside does (R16, R103, R116). -/

namespace Sys2Proof.Machine

/-- One event. A reset, whatever its cause, has the one effect of R100 and gives no response (R101);
a lone `RegRead` gives its value back to the host. -/
def handle (e : HostEvent) (s : State) : Out :=
  match e with
  | .command w => command w s
  | .reset _ => .next (resetCodec s)
  | .regWrite ptr v => regWrite ptr v s
  | .regRead ptr => regRead ptr s fun v t => .next (t.giveBack (.raw v))
  | .wait ms => .next (waitMs ms s)
  | .session op => runSession op s
  | .alertLatches => .next (s.withChip (chipLatchAlert s.chip))
  | .chipPowerCycle => .next ((s.withChip (chipAfterPowerCycle s.draws)).draw 4)

/-- The command word placed where the machine takes its next event. -/
def presentCommand (w : Cmd) (s : State) : State := s.withInbox (.command w :: s.inbox)

end Sys2Proof.Machine
end

