-- ==== Sys2Proof/Machine/Step.lean ====
section
/-! DEFINITION. One step: the next event is taken from the inbox and handled. With no event pending
"the codec does nothing" (R16). -/

namespace Sys2Proof.Machine

/-- One step of the machine (R16, R103, R117). -/
def step (s : State) : Host.Outcome State Fault Refusal :=
  match s.inbox with
  | [] => .next s
  | e :: rest => handle e (s.withInbox rest)

/-- The next instruction placed on the command port, before whatever is pending. -/
def State.withFetchWord (s : State) (nbits w : Nat) : State := presentCommand (portWord nbits w) s

end Sys2Proof.Machine
end

