-- ==== Sys2Proof/Machine/Assembler.lean ====
section
/-! DEFINITION. The assembler of R53: one command a line, a mnemonic in upper case, at most one
operand, a comment from `;` to the end of the line. Text is a list of characters. -/

namespace Sys2Proof.Machine

/-- What a line stands for: a command, or a 20-bit word as it stands (`.word`). -/
inductive AsmItem where
  | command (i : Instr)
  | word (w : Cmd)
  deriving DecidableEq, Repr

/-- The word a line emits (R53, column "encodes as"). -/
def emit (a : AsmItem) : Cmd :=
  match a with
  | .command i => encode i
  | .word w => w

/-- The line before its comment. -/
def stripComment (line : List Char) : List Char := line.takeWhile (· != ';')

/-- White space between mnemonic and operand. -/
def isBlank (c : Char) : Bool := c == ' ' || c == '\t' || c == '\r'

/-- The fields of a line, `current` being the field read so far, last character first. -/
def splitFields (line current : List Char) : List (List Char) :=
  match line with
  | [] => if current.isEmpty then [] else [current.reverse]
  | c :: rest =>
    if isBlank c then
      if current.isEmpty then splitFields rest [] else current.reverse :: splitFields rest []
    else splitFields rest (c :: current)

/-- The numerals of R53 in order of value, as its own examples print them (`0xC350`). -/
def numerals : List Char := "0123456789ABCDEF".toList

/-- The value of a numeral is its place among the numerals, the case of a letter set aside
(log entry 14). -/
def digitValue (c : Char) : Option Nat := numerals.findIdx? (· == c.toUpper)

/-- Digits in a base, `acc` being the value of those already read. -/
def readDigits (base acc : Nat) (ds : List Char) : Option Nat :=
  match ds with
  | [] => some acc
  | c :: rest =>
    match digitValue c with
    | some d => if d < base then readDigits base (acc * base + d) rest else none
    | none => none

/-- A natural number in a base: at least one digit. -/
def readBase (base : Nat) (ds : List Char) : Option Nat :=
  if ds.isEmpty then none else readDigits base 0 ds

/-- A natural number, decimal or `0x` hexadecimal (R53). -/
def readNat (t : List Char) : Option Nat :=
  match t with
  | '0' :: 'x' :: ds => readBase 16 ds
  | _ => readBase 10 t

/-- A natural number below a bound. -/
def readBelow (bound : Nat) (t : List Char) : Option Nat :=
  match readNat t with
  | some n => if n < bound then some n else none
  | none => none

/-- The threshold operand: an integer -32768 to 32767, or `0x` hexadecimal 0 to 0xFFFF (R53). -/
def readThreshold (t : List Char) : Option Word :=
  match t with
  | '0' :: 'x' :: ds =>
    match readBase 16 ds with
    | some n => if n < 65536 then some (BitVec.ofNat 16 n) else none
    | none => none
  | '-' :: ds =>
    match readBase 10 ds with
    | some n => if n ≤ 32768 then some (BitVec.ofInt 16 (-(n : Int))) else none
    | none => none
  | _ =>
    match readBase 10 t with
    | some n => if n ≤ 32767 then some (BitVec.ofNat 16 n) else none
    | none => none

/-- The gain operand: 0 to 7, or a name of R44. -/
def readGain (t : List Char) : Option GainCode :=
  if t = "G6144".toList then some 0
  else if t = "G4096".toList then some 1
  else if t = "G2048".toList then some 2
  else if t = "G1024".toList then some 3
  else if t = "G0512".toList then some 4
  else if t = "G0256".toList then some 5
  else
    match readBelow 8 t with
    | some n => some (BitVec.ofNat 3 n)
    | none => none

/-- A command without operand. -/
def asmNullary (m : List Char) : Option AsmItem :=
  if m = "BUILD.D01".toList then some (.command .buildD01)
  else if m = "BUILD.D23".toList then some (.command .buildD23)
  else if m = "GETGAIN".toList then some (.command .getGain)
  else none

/-- A command with one operand. -/
def asmUnary (m t : List Char) : Option AsmItem :=
  if m = "BUILD.SE".toList then (readBelow 65536 t).map fun c => .command (.buildSe c)
  else if m = "BUILD.CMP".toList then (readBelow 65536 t).map fun c => .command (.buildCmp c)
  else if m = "DECODE".toList then
    (readBelow 65536 t).map fun raw => .command (.decode (BitVec.ofNat 16 raw))
  else if m = "DECODEU".toList then
    (readBelow 65536 t).map fun raw => .command (.decodeU (BitVec.ofNat 16 raw))
  else if m = "ENCTHR".toList then (readThreshold t).map fun w => .command (.encThr w)
  else if m = "SETGAIN".toList then (readGain t).map fun g => .command (.setGain g)
  else if m = ".word".toList then
    (readBelow 1048576 t).map fun w => .word (BitVec.ofNat 20 w)
  else none

/-- One line of the assembler: the word it emits, or nothing if the line has no such form (R53). -/
def assembleLine (line : List Char) : Option Cmd :=
  match splitFields (stripComment line) [] with
  | [m] => (asmNullary m).map emit
  | [m, t] => (asmUnary m t).map emit
  | _ => none

end Sys2Proof.Machine
end

