-- ==== Sys2Proof/Safety.lean ====
section
/-! DEFINITION. The terms in which claims speak of safe runs: the invariant, the shape of what
crosses the bus, the events a host model offers, runs of command words, and the transition function
of R18 written a second time, on numbers. -/

namespace Sys2Proof.Machine

/-- The invariant of the gain register: "always one of the 6 defined values" (R10). -/
abbrev GainLegal (s : State) : Prop := s.gain.toNat ≤ 5

/-- A bus log made of nothing but whole transactions of the two shapes of R25 and R26, on registers
that exist, and waits. -/
inductive BusTrace : List BusOp → Prop where
  | empty : BusTrace []
  | write {log : List BusOp} (r : ChipRegister) (v : Word) :
      BusTrace log → BusTrace (log ++ regWriteOps (pointerOf r) v)
  | read {log : List BusOp} (v : Word) :
      BusTrace log → BusTrace (log ++ regReadOps (pointerOf .conversion) v)
  | wait {log : List BusOp} (ms : Nat) :
      BusTrace log → BusTrace (log ++ [.waitMilliseconds ms])

/-- What every step keeps. -/
def StateInv (s : State) : Prop := GainLegal s ∧ BusTrace s.bus

/-- The events a host model offers: every event but an access the spec tells it to refuse
(R22, R27, U10, U16). -/
def offered (e : HostEvent) : Bool :=
  match e with
  | .command _ => true
  | .reset _ => true
  | .regWrite ptr _ => (registerOf ptr).isSome
  | .regRead ptr => registerOf ptr == some .conversion
  | .wait _ => true
  | .session _ => true
  | .alertLatches => true
  | .chipPowerCycle => true

/-- Handle events one after the other (R103, R117). -/
def runEvents (es : List HostEvent) (s : State) : Out :=
  match es with
  | [] => .next s
  | e :: rest => andThen (handle e s) (runEvents rest)

/-- Execute command words one after the other (R34 point 1, R117). -/
def runCommands (ws : List Cmd) (s : State) : Out :=
  match ws with
  | [] => .next s
  | w :: rest => andThen (command w s) (runCommands rest)

/-- Waits one after the other. -/
def waitAll (waits : List Nat) (s : State) : State := waits.foldl (fun t ms => waitMs ms t) s

/-- The word opens with the opcode of `SETGAIN` (R37). -/
def hasSetGainOpcode (w : Cmd) : Bool := w.toNat / 65536 == 8

/-- The four packers among the commands. -/
def isBuild (i : Instr) : Bool :=
  match i with
  | .buildSe _ => true
  | .buildD01 => true
  | .buildD23 => true
  | .buildCmp _ => true
  | .decode _ => false
  | .decodeU _ => false
  | .encThr _ => false
  | .setGain _ => false
  | .getGain => false

/-- An event that may write a configuration word to the chip, or take its power away. -/
def mayReconfigure (e : HostEvent) : Bool :=
  match e with
  | .command _ => false
  | .reset _ => false
  | .regWrite ptr _ => ptr.toNat == 1
  | .regRead _ => false
  | .wait _ => false
  | .session op =>
    match op with
    | .readSingleEnded _ => true
    | .readDifferential01 => true
    | .readDifferential23 => true
    | .getLastConversionResults => false
    | .startComparatorSingleEnded _ _ => true
    | .setGain _ => false
    | .getGain => false
  | .alertLatches => false
  | .chipPowerCycle => true

/-- The transition function of R18 on plain numbers, with no decoder, no bit field and no shift: the
opcode and the operand are quotient and remainder by 65536, every field of the configuration word is
a multiple of a power of two added on (R119: "OR equals placement and equals addition"), the sample
is a floor division (R69 law 1), the threshold a product (R73). Layout of R41. -/
def referenceCommand (p : Params) (g : GainCode) (w : Cmd) : GainCode × Response :=
  let arg := w.toNat % 65536
  let unit := 2 ^ shiftWidth p.family
  let answer (n : Nat) : GainCode × Response := (g, ⟨BitVec.ofNat 16 n, .ok⟩)
  let illegal : GainCode × Response := (g, ⟨0, .illegalCommand⟩)
  let badChannel : GainCode × Response := (g, ⟨0, .invalidChannel⟩)
  match w.toNat / 65536 with
  | 1 => if arg ≤ 3 then answer (0x8183 + (4 + arg) * 0x1000 + g.toNat * 0x200) else badChannel
  | 2 => if arg = 0 then answer (0x8183 + g.toNat * 0x200) else illegal
  | 3 => if arg = 0 then answer (0xB183 + g.toNat * 0x200) else illegal
  | 4 =>
    if arg ≤ 3 then answer (0x0084 + (4 + arg) * 0x1000 + g.toNat * 0x200)
    else
      match p.cmpChannelPolicy with
      | .fault => badChannel
      | .legacyUnset => answer (0x0084 + g.toNat * 0x200)
  | 5 => (g, ⟨fromInt16 (Int.fdiv (if arg < 32768 then (arg : Int) else arg - 65536) unit), .ok⟩)
  | 6 => answer (arg / unit)
  | 7 => answer (arg * unit % 65536)
  | 8 =>
    if 8 ≤ arg then illegal
    else if 5 < arg then (g, ⟨0, .invalidGain⟩)
    else (BitVec.ofNat 3 arg, ⟨BitVec.ofNat 16 arg, .ok⟩)
  | 9 => if arg = 0 then answer g.toNat else illegal
  | _ => illegal

end Sys2Proof.Machine
end

