-- ==== Sys2Proof/Certificates/Slice0/Obligations.lean ====
section
/-! DEFINITION. The statements for the provers. Each docstring names the rule it formalises. -/

open Sys2Proof Sys2Proof.Machine

/-! ### Reset, steps, command events -/

/-- R100: reset, whichever its cause (R101), puts `GAIN` at 0, the widest range, and is no more. -/
def Obligations.ResetLeavesWidestGain : Prop :=
  State.reset.gain = 0 ∧ fullScaleMilliVolts State.reset.gain = some 6144 ∧
    ∀ (cause : ResetCause) (s : State), handle (.reset cause) s = .next (s.withGain 0)

/-- R16, R39: a step whose next event is a word that decodes is that command's execution, with the
event taken from the inbox; and a word placed for fetching is the next event. -/
def Obligations.StepRunsDecodedCommand : Prop :=
  (∀ (s : State) (w : Cmd) (i : Instr) (rest : List HostEvent),
    s.inbox = .command w :: rest → decode w = .ok i → step s = exec i (s.withInbox rest)) ∧
  (∀ (s : State) (nbits w : Nat) (i : Instr),
    decodeTableWord nbits w = some i → step (s.withFetchWord nbits w) = exec i s)

/-- R16: with no event pending nothing happens; otherwise the first event is handled and the rest
stay pending. That the events to come are a list in the state is the model's form (log entry 1). -/
def Obligations.StepTakesTheNextEvent : Prop :=
  (∀ s : State, s.inbox = [] → step s = .next s) ∧
  (∀ (s : State) (e : HostEvent) (rest : List HostEvent),
    s.inbox = e :: rest → step s = handle e (s.withInbox rest))

/-- R16: every command event is answered, by exactly one response, whatever the word. -/
def Obligations.EveryCommandAnswersOnce : Prop :=
  ∀ (w : Cmd) (s : State), ∃ (t : State) (r : Response),
    command w s = .next t ∧ t.responses = s.responses ++ [r]

/-! ### Encoding -/

/-- R39: each of the 2^20 words selects exactly one row of the opcode table and is that row's
command, or selects none and raises `IllegalCommand`; channels and gain codes are not checked by the
decoder. -/
def Obligations.DecoderFollowsOpcodeTable : Prop :=
  (∀ (w : Cmd) (s : State),
    (∃ i, decode w = .ok i ∧ opcodeTable.filter (·.selectedBy w) = [rowOf i] ∧
      command w s = exec i s) ∨
    ((∃ e, decode w = .error e) ∧ opcodeTable.filter (·.selectedBy w) = [] ∧
      command w s = .next (s.answer ⟨0, .illegalCommand⟩))) ∧
  (∀ arg : Word, decode (cmdWord 0x1 arg) = .ok (.buildSe arg.toNat) ∧
    decode (cmdWord 0x4 arg) = .ok (.buildCmp arg.toNat)) ∧
  (∀ g : GainCode, decode (cmdWord 0x8 (zext16 g)) = .ok (.setGain g))

/-- R89: the words that raise `IllegalCommand` are those with `op` 0x0 or 0xA to 0xF and those with
a non-zero must-be-zero field in `BUILD.D01`, `BUILD.D23`, `SETGAIN`, `GETGAIN`. -/
def Obligations.IllegalWordsRaise : Prop :=
  ∀ w : Cmd,
    ((∃ e, decode w = .error e) ↔
      (w.toNat / 65536 = 0 ∨ 10 ≤ w.toNat / 65536 ∨
       ((w.toNat / 65536 = 2 ∨ w.toNat / 65536 = 3 ∨ w.toNat / 65536 = 9) ∧ w.toNat % 65536 ≠ 0) ∨
       (w.toNat / 65536 = 8 ∧ 8 ≤ w.toNat % 65536))) ∧
    ((∃ e, decode w = .error e) →
      ∀ s : State, command w s = .next (s.answer ⟨0x0000, .illegalCommand⟩))

/-- R50: 327691 of the 2^20 words are legal. -/
def Obligations.LegalWordCount : Prop :=
  ((Finset.range (2 ^ 20)).filter fun n => (decodeTableWord 20 n).isSome = true).card = 327691

/-- R36 to R38: decoding what the encoder wrote gives the instruction back, every operand at every
value its field admits. -/
def Obligations.DecodeOfEncode : Prop :=
  ∀ i : Instr, WellFormed i = true → decode (encode i) = .ok i

/-- R36 to R39: the instruction read from a word is well formed and is encoded by that one word. -/
def Obligations.EncodeOfDecode : Prop :=
  ∀ (w : Cmd) (i : Instr), decode w = .ok i → encode i = w ∧ WellFormed i = true

/-- R37, R53 and the vectors: words as the spec prints them, with the commands they stand for. -/
def Obligations.PrintedWordsDecode : Prop :=
  decode 0x10004 = .ok (.buildSe 4) ∧ decode 0x1FFFF = .ok (.buildSe 65535) ∧
  decode 0x20000 = .ok .buildD01 ∧ decode 0x30000 = .ok .buildD23 ∧
  decode 0x40001 = .ok (.buildCmp 1) ∧ decode 0x58000 = .ok (.decode 0x8000) ∧
  decode 0x67FF0 = .ok (.decodeU 0x7FF0) ∧ decode 0x703E8 = .ok (.encThr 0x03E8) ∧
  decode 0x80002 = .ok (.setGain 2) ∧ decode 0x80006 = .ok (.setGain 6) ∧
  decode 0x90000 = .ok .getGain ∧ decode 0x80016 = .error (.strayOperand 0x8 0x0016) ∧
  decode 0x00000 = .error (.reservedOpcode 0x0)

/-- R53: the assembler's lines of the vectors emit the words printed beside them. -/
def Obligations.AssemblerEmitsPrintedWords : Prop :=
  assembleLine "BUILD.SE 0x8000".toList = some 0x18000 ∧
  assembleLine "BUILD.CMP 200 ; legacy".toList = some 0x400C8 ∧
  assembleLine "BUILD.D01".toList = some 0x20000 ∧
  assembleLine "DECODE 0xC350".toList = some 0x5C350 ∧
  assembleLine "DECODEU 0x7FF5".toList = some 0x67FF5 ∧
  assembleLine "ENCTHR -1000".toList = some 0x7FC18 ∧
  assembleLine "ENCTHR 0x1234".toList = some 0x71234 ∧
  assembleLine "SETGAIN G2048".toList = some 0x80002 ∧
  assembleLine ".word 0x80016".toList = some 0x80016 ∧
  assembleLine "BUILD.SE 65536".toList = none ∧ assembleLine "ENCTHR 32768".toList = none ∧
  assembleLine "BUILD.D01 0".toList = none

/-! ### The nine commands -/

/-- R56: encoding, result on channels 0 to 3, fault above, and the host's sample 0 without a
transaction. -/
def Obligations.BuildSingleEnded : Prop :=
  ∀ (s : State) (c : Nat),
    (c < 65536 → encode (.buildSe c) = BitVec.ofNat 20 (0x10000 + c)) ∧
    (c ≤ 3 → exec (.buildSe c) s = .next (s.answer
      ⟨0x8183 ||| lsl16 (0x0004 ||| BitVec.ofNat 16 c) 12 ||| lsl16 (zext16 s.gain) 9, .ok⟩)) ∧
    (3 < c → exec (.buildSe c) s = .next (s.answer ⟨0x0000, .invalidChannel⟩)) ∧
    (3 < c → c < 65536 → runSession (.readSingleEnded (BitVec.ofNat 16 c)) s =
      .next ((s.answer ⟨0x0000, .invalidChannel⟩).giveBack (.unsignedSample 0)))

/-- R57: encoding, result, and the words with an operand that are not this command. -/
def Obligations.BuildPair01 : Prop :=
  encode .buildD01 = 0x20000 ∧
  ∀ s : State,
    exec .buildD01 s = .next (s.answer ⟨0x8183 ||| lsl16 (zext16 s.gain) 9, .ok⟩) ∧
    ∀ arg : Word, arg ≠ 0 →
      command (cmdWord 0x2 arg) s = .next (s.answer ⟨0x0000, .illegalCommand⟩)

/-- R58: encoding, result, and the words with an operand that are not this command. -/
def Obligations.BuildPair23 : Prop :=
  encode .buildD23 = 0x30000 ∧
  ∀ s : State,
    exec .buildD23 s = .next (s.answer ⟨0xB183 ||| lsl16 (zext16 s.gain) 9, .ok⟩) ∧
    ∀ arg : Word, arg ≠ 0 →
      command (cmdWord 0x3 arg) s = .next (s.answer ⟨0x0000, .illegalCommand⟩)

/-- R59: encoding, result on channels 0 to 3, fault above under the policy this hardware takes; the
result above under either policy (this clause is about `legacy_unset` too); and the host's order, the
threshold written before this word. -/
def Obligations.BuildComparatorArm : Prop :=
  (∀ (s : State) (c : Nat),
    (c < 65536 → encode (.buildCmp c) = BitVec.ofNat 20 (0x40000 + c)) ∧
    (c ≤ 3 → exec (.buildCmp c) s = .next (s.answer
      ⟨0x0084 ||| lsl16 (0x0004 ||| BitVec.ofNat 16 c) 12 ||| lsl16 (zext16 s.gain) 9, .ok⟩)) ∧
    (3 < c → exec (.buildCmp c) s = .next (s.answer ⟨0x0000, .invalidChannel⟩))) ∧
  (∀ (family : Family) (g : GainCode) (c : Nat), 3 < c →
    cmpArmWord ⟨family, ads1x15Layout, .fault⟩ g c = .error .invalidChannel ∧
    cmpArmWord ⟨family, ads1x15Layout, .legacyUnset⟩ g c = .ok (0x0084 ||| lsl16 (zext16 g) 9)) ∧
  (∀ (channel threshold : Word) (s : State), channel.toNat ≤ 3 → ∃ (t : State) (thr : Word),
    runSession (.startComparatorSingleEnded channel threshold) s = .next t ∧
    t.bus = s.bus ++ regWriteOps 0x03 thr ++ regWriteOps 0x01
      (0x0084 ||| lsl16 (0x0004 ||| channel) 12 ||| lsl16 (zext16 s.gain) 9))

/-- R67: encoding and result, for both families. -/
def Obligations.DecodeSigned : Prop :=
  ∀ (s : State) (raw : Word),
    encode (.decode raw) = BitVec.ofNat 20 (0x50000 + raw.toNat) ∧
    exec (.decode raw) s = .next (s.answer
      ⟨match Config.family with
       | .family12 => (raw.extractLsb' 4 12).signExtend 16
       | .family16 => raw, .ok⟩)

/-- R68: encoding and result, for both families. -/
def Obligations.DecodeUnsigned : Prop :=
  ∀ (s : State) (raw : Word),
    encode (.decodeU raw) = BitVec.ofNat 20 (0x60000 + raw.toNat) ∧
    exec (.decodeU raw) s = .next (s.answer
      ⟨match Config.family with
       | .family12 => (raw.extractLsb' 4 12).setWidth 16
       | .family16 => raw, .ok⟩)

/-- R74: encoding and result, for both families; what does not fit is cut off, not refused. -/
def Obligations.EncodeThreshold : Prop :=
  ∀ (s : State) (t : Word),
    encode (.encThr t) = BitVec.ofNat 20 (0x70000 + t.toNat) ∧
    exec (.encThr t) s = .next (s.answer
      ⟨match Config.family with
       | .family12 => t.extractLsb' 0 12 ++ 0b0000#4
       | .family16 => t, .ok⟩)

/-- R78: encoding, the write and the echo for the six gains, the fault that keeps the old gain, and
the words whose `arg[15:3]` is not zero. -/
def Obligations.SetGainWritesOrRefuses : Prop :=
  ∀ (s : State) (g : GainCode),
    encode (.setGain g) = BitVec.ofNat 20 (0x80000 + g.toNat) ∧
    (g.toNat ≤ 5 → exec (.setGain g) s = .next ((s.withGain g).answer ⟨zext16 g, .ok⟩)) ∧
    (5 < g.toNat → exec (.setGain g) s = .next (s.answer ⟨0x0000, .invalidGain⟩)) ∧
    (∀ arg : Word, arg.extractLsb' 3 13 ≠ 0 →
      command (cmdWord 0x8 arg) s = .next (s.answer ⟨0x0000, .illegalCommand⟩))

/-- R79: encoding, result, the words with an operand, the answer after reset. -/
def Obligations.GetGainReads : Prop :=
  encode .getGain = 0x90000 ∧
  (∀ s : State, exec .getGain s = .next (s.answer ⟨zext16 s.gain, .ok⟩) ∧
    ∀ arg : Word, arg ≠ 0 →
      command (cmdWord 0x9 arg) s = .next (s.answer ⟨0x0000, .illegalCommand⟩)) ∧
  exec .getGain State.reset = .next (State.reset.answer ⟨0x0000, .ok⟩) ∧
  (∀ s : State, GainLegal s → (zext16 s.gain).toNat ≤ 5)

/-! ### What commands leave alone, and what they cannot know -/

/-- The frame of the nine commands (R10, R17, R20): a command changes nothing but the list of
responses, which grows by one, and, if it is `SETGAIN` of a gain setting, `GAIN`. -/
def Obligations.CommandFrame : Prop :=
  ∀ (i : Instr) (s t : State), exec i s = .next t →
    t.inbox = s.inbox ∧ t.chip = s.chip ∧ t.bus = s.bus ∧ t.returned = s.returned ∧
    t.draws = s.draws ∧ (∃ r, t.responses = s.responses ++ [r]) ∧
    (t.gain = s.gain ∨ ∃ g : GainCode, i = .setGain g ∧ g.toNat ≤ 5 ∧ t.gain = g)

/-- R20: no command writes the device registers or the bus, and none reads them: with another chip
and another bus log the same thing happens. -/
def Obligations.CommandsTouchNoMemory : Prop :=
  ∀ (i : Instr) (s : State),
    (∀ t, exec i s = .next t → t.chip = s.chip ∧ t.bus = s.bus) ∧
    (∀ (c : Chip) (ops : List BusOp), exec i ((s.withChip c).logBus ops) =
      andThen (exec i s) fun t => .next ((t.withChip c).logBus ops))

/-- R17: the response and the gain after a command depend on the word and on `GAIN` alone. -/
def Obligations.ResponseDependsOnGainAndWord : Prop :=
  ∀ (w : Cmd) (s u : State), s.gain = u.gain →
    ∃ (r : Response) (g : GainCode),
      command w s = .next ((s.withGain g).answer r) ∧
      command w u = .next ((u.withGain g).answer r)

/-- R71, R77 (conflict C1): the unpackers and the threshold packer do not read the gain. -/
def Obligations.UnpackAndThresholdIgnoreGain : Prop :=
  ∀ (v : Word) (s : State) (g : GainCode),
    (∃ res, exec (.decode v) s = .next (s.answer ⟨res, .ok⟩) ∧
      exec (.decode v) (s.withGain g) = .next ((s.withGain g).answer ⟨res, .ok⟩)) ∧
    (∃ res, exec (.decodeU v) s = .next (s.answer ⟨res, .ok⟩) ∧
      exec (.decodeU v) (s.withGain g) = .next ((s.withGain g).answer ⟨res, .ok⟩)) ∧
    (∃ res, exec (.encThr v) s = .next (s.answer ⟨res, .ok⟩) ∧
      exec (.encThr v) (s.withGain g) = .next ((s.withGain g).answer ⟨res, .ok⟩))

/-! ### Faults -/

/-- R84: the two bits of `st`, all four values used. -/
def Obligations.StatusBits : Prop :=
  statusCode .ok = 0b00 ∧ statusCode .invalidChannel = 0b01 ∧ statusCode .invalidGain = 0b10 ∧
  statusCode .illegalCommand = 0b11 ∧ (∀ st, statusOfCode (statusCode st) = st) ∧
  (∀ b, statusCode (statusOfCode b) = b)

/-- R83, R91: which word gives which status: `IllegalCommand` the words that decode to nothing,
`InvalidChannel` a channel above 3 of the two commands that take one (policy `fault`), `InvalidGain`
a gain code above 5, and no other word a fault. -/
def Obligations.EachFaultHasItsCause : Prop :=
  ∀ (w : Cmd) (s t : State) (r : Response), command w s = .next t → t.answerAfter s = some r →
    (r.st = .illegalCommand ↔ ∃ e, decode w = .error e) ∧
    (r.st = .invalidChannel ↔
      ∃ c, 3 < c ∧ (decode w = .ok (.buildSe c) ∨ decode w = .ok (.buildCmp c))) ∧
    (r.st = .invalidGain ↔ ∃ g : GainCode, 5 < g.toNat ∧ decode w = .ok (.setGain g))

/-- R86: a command that raises a fault (each of the three, by its cause) writes no state, records
nothing, and answers `0x0000` with the code of that fault. -/
def Obligations.FaultEntryChangesNothing : Prop :=
  (∀ (w : Cmd) (s t : State) (r : Response),
    command w s = .next t → t.answerAfter s = some r → r.st ≠ .ok →
      t = s.answer ⟨0x0000, r.st⟩) ∧
  (∀ (w : Cmd) (s : State),
    ((∃ e, decode w = .error e) → command w s = .next (s.answer ⟨0x0000, statusOfCode 0b11⟩)) ∧
    (∀ c, 3 < c → (decode w = .ok (.buildSe c) ∨ decode w = .ok (.buildCmp c)) →
      command w s = .next (s.answer ⟨0x0000, statusOfCode 0b01⟩)) ∧
    (∀ g : GainCode, 5 < g.toNat → decode w = .ok (.setGain g) →
      command w s = .next (s.answer ⟨0x0000, statusOfCode 0b10⟩)))

/-- R90: no fault is sticky: after a faulting command every command answers, and leaves the gain, as
it would have before it. -/
def Obligations.FaultsAreNotSticky : Prop :=
  ∀ (w v : Cmd) (s t : State) (r : Response),
    command w s = .next t → t.answerAfter s = some r → r.st ≠ .ok →
      ∃ (q : Response) (g : GainCode),
        command v s = .next ((s.withGain g).answer q) ∧
        command v t = .next ((t.withGain g).answer q)

/-! ### Laws of the pure functions -/

/-- R69, laws 1 to 8. -/
def Obligations.UnpackerLaws : Prop :=
  (∀ (f : Family) (raw : Word),
    decodeSample f raw = asr16 raw (shiftWidth f) ∧
    toInt16 (decodeSample f raw) = Int.fdiv (toInt16 raw) (2 ^ shiftWidth f) ∧
    -2 ^ (15 - shiftWidth f) ≤ toInt16 (decodeSample f raw) ∧
    toInt16 (decodeSample f raw) ≤ 2 ^ (15 - shiftWidth f) - 1 ∧
    (∀ n ≤ 15 - shiftWidth f,
      (decodeSample f raw).getLsbD n = (decodeUnsigned f raw).getLsbD n) ∧
    ((raw.getLsbD 15 = false ∨ shiftWidth f = 0) → decodeSample f raw = decodeUnsigned f raw) ∧
    (decodeUnsigned f raw).toNat ≤ 2 ^ (16 - shiftWidth f) - 1 ∧
    (∀ v : Word, (∀ n, shiftWidth f ≤ n → v.getLsbD n = raw.getLsbD n) →
      decodeSample f v = decodeSample f raw ∧ decodeUnsigned f v = decodeUnsigned f raw)) ∧
  (∀ (f : Family) (z : Int), -2 ^ (15 - shiftWidth f) ≤ z → z ≤ 2 ^ (15 - shiftWidth f) - 1 →
    toInt16 (decodeSample f (lsl16 (fromInt16 z) (shiftWidth f))) = z) ∧
  (∀ raw : Word,
    decodeSample .family16 raw = raw ∧
    (decodeSample .family12 raw).extractLsb' 12 4 = (if raw.getLsbD 15 then 0b1111 else 0b0000) ∧
    decodeSample .family12 raw =
      decodeUnsigned .family12 raw ||| (if raw.getLsbD 15 then 0xF000 else 0x0000) ∧
    decodeSample .family12 raw = decodeSample .family12 (raw &&& 0xFFF0) ∧
    decodeUnsigned .family12 raw = decodeUnsigned .family12 (raw &&& 0xFFF0) ∧
    (0x07FF < (decodeUnsigned .family12 raw).toNat ↔
      (decodeUnsigned .family12 raw).getLsbD 11 = true))

/-- R75, laws 1 to 6, with the round trip as C2 resolves it. -/
def Obligations.ThresholdLaws : Prop :=
  (∀ (f : Family) (t : Word),
    (decodeSample f (encodeThreshold f t) = t ↔
      (-2 ^ (15 - shiftWidth f) ≤ toInt16 t ∧ toInt16 t ≤ 2 ^ (15 - shiftWidth f) - 1)) ∧
    encodeThreshold f (decodeSample f t) = t &&& ~~~ BitVec.ofNat 16 (2 ^ shiftWidth f - 1) ∧
    encodeThreshold f (decodeSample f (encodeThreshold f t)) = encodeThreshold f t ∧
    ((-2 ^ (15 - shiftWidth f) ≤ toInt16 t ∧ toInt16 t ≤ 2 ^ (15 - shiftWidth f) - 1) →
      toInt16 (encodeThreshold f t) = toInt16 t * 2 ^ shiftWidth f)) ∧
  (∀ t : Word, (encodeThreshold .family12 t).extractLsb' 0 4 = 0b0000 ∧
    encodeThreshold .family12 t = encodeThreshold .family12 (t &&& 0x0FFF))

/-- R61, laws 1 to 6, in the layout of R41. -/
def Obligations.PackerLaws : Prop :=
  (∀ (g : GainCode) (p : Profile) (c : Fin 4),
    readField ads1x15Layout.mux (buildConfig ads1x15Layout g (.ch c) p) = 0b100 + c.val ∧
    ∀ d : Fin 4, buildConfig ads1x15Layout g (.ch c) p &&& ~~~ 0x7000 =
      buildConfig ads1x15Layout g (.ch d) p &&& ~~~ 0x7000) ∧
  (∀ (g h : GainCode) (sel : InputSel) (p : Profile),
    readField ads1x15Layout.pga (buildConfig ads1x15Layout g sel p) = g.toNat ∧
    buildConfig ads1x15Layout g sel p &&& ~~~ 0x0E00 =
      buildConfig ads1x15Layout h sel p &&& ~~~ 0x0E00) ∧
  (∀ (g h : GainCode) (sel tel : InputSel) (p q : Profile),
    buildConfig ads1x15Layout g sel p = buildConfig ads1x15Layout h tel q →
      g = h ∧ sel = tel ∧ p = q) ∧
  (∀ (g : GainCode) (sel : InputSel),
    buildConfig ads1x15Layout g sel .read &&& 0x81FF = 0x8183 ∧
    buildConfig ads1x15Layout g sel .cmpArm &&& 0x81FF = 0x0084) ∧
  (∀ (i : Instr) (s t : State) (r : Response), isBuild i = true → GainLegal s →
    exec i s = .next t → t.answerAfter s = some r → r.st = .ok →
      readField ads1x15Layout.pga r.res ≤ 5 ∧ readField ads1x15Layout.mux r.res ≠ 0b001 ∧
      readField ads1x15Layout.mux r.res ≠ 0b010 ∧ readField ads1x15Layout.dr r.res = 0b100)

/-- R62: every word the packer can produce, row by row of the two tables, the last column of the
second being the `legacy_unset` word. -/
def Obligations.PackerWordTable : Prop :=
  (∀ g : GainCode, g.toNat ≤ 5 →
    [InputSel.ch 0, .ch 1, .ch 2, .ch 3, .pair01, .pair23].map
        (fun sel => buildConfig ads1x15Layout g sel .read) =
      [0xC183, 0xD183, 0xE183, 0xF183, 0x8183, 0xB183].map
        (fun w : Word => w + BitVec.ofNat 16 (0x0200 * g.toNat)) ∧
    [InputSel.ch 0, .ch 1, .ch 2, .ch 3].map
        (fun sel => buildConfig ads1x15Layout g sel .cmpArm) ++ [unsetMuxConfig ads1x15Layout g] =
      [0x4084, 0x5084, 0x6084, 0x7084, 0x0084].map
        (fun w : Word => w + BitVec.ofNat 16 (0x0200 * g.toNat)))

/-- R42: the nine codes side by side are their OR after shifting, are read back field by field, and
are what `buildConfig` builds. -/
def Obligations.PackedFieldsSideBySide : Prop :=
  (∀ (os : BitVec 1) (mux pga : BitVec 3) (mode : BitVec 1) (dr : BitVec 3)
      (cmode cpol clat : BitVec 1) (cque : BitVec 2),
    cfgPack os mux pga mode dr cmode cpol clat cque =
      lsl16 (os.setWidth 16) 15 ||| lsl16 (mux.setWidth 16) 12 ||| lsl16 (pga.setWidth 16) 9 |||
      lsl16 (mode.setWidth 16) 8 ||| lsl16 (dr.setWidth 16) 5 ||| lsl16 (cmode.setWidth 16) 4 |||
      lsl16 (cpol.setWidth 16) 3 ||| lsl16 (clat.setWidth 16) 2 ||| cque.setWidth 16 ∧
    (layoutRanges ads1x15Layout).map
        (fun r => readField r (cfgPack os mux pga mode dr cmode cpol clat cque)) =
      [os.toNat, mux.toNat, pga.toNat, mode.toNat, dr.toNat, cmode.toNat, cpol.toNat, clat.toNat,
        cque.toNat]) ∧
  (∀ (g : GainCode) (sel : InputSel),
    buildConfig ads1x15Layout g sel .read =
      cfgPack 1 (BitVec.ofNat 3 (muxCode ads1x15Layout sel)) g 1 0b100 0 0 0 0b11 ∧
    buildConfig ads1x15Layout g sel .cmpArm =
      cfgPack 0 (BitVec.ofNat 3 (muxCode ads1x15Layout sel)) g 0 0b100 0 0 1 0b00)

/-- R41, R43: the layout taken is admissible, and its nine ranges cover the 16 bits. -/
def Obligations.LayoutTakenIsLegal : Prop :=
  LayoutLegal ads1x15Layout ∧
  (layoutRanges ads1x15Layout).map fieldMask =
    [0x8000, 0x7000, 0x0E00, 0x0100, 0x00E0, 0x0010, 0x0008, 0x0004, 0x0003] ∧
  ((layoutRanges ads1x15Layout).map fieldMask).foldl (· ||| ·) 0 = 0xFFFF ∧
  profileConst ads1x15Layout .read = 0x8183 ∧ profileConst ads1x15Layout .cmpArm = 0x0084

/-- R40 with R61 (conflict C4): in EVERY admissible layout the packer drops no code and mixes no
fields: each of the nine fields reads back what was put there, and two channels give different words
that differ inside the multiplexer range only. -/
def Obligations.EveryLegalLayoutPacks : Prop :=
  ∀ (L : CfgLayout), LayoutLegal L → ∀ (g : GainCode), g.toNat ≤ 5 → ∀ (p : Profile),
    (∀ sel : InputSel,
      (layoutRanges L).map (fun r => readField r (buildConfig L g sel p)) =
        [osCode L p, muxCode L sel, g.toNat, modeCode L p, L.dr1600, L.cmodeTraditional,
          L.cpolActiveLow, clatCode L p, cqueCode L p]) ∧
    (∀ c d : Fin 4,
      buildConfig L g (.ch c) p &&& ~~~ fieldMask L.mux =
        buildConfig L g (.ch d) p &&& ~~~ fieldMask L.mux ∧
      (c ≠ d → buildConfig L g (.ch c) p ≠ buildConfig L g (.ch d) p))

/-- R44: the six gain codes, their full-scale ranges from widest to narrowest, their amplifier gains,
and the two codes that are no gain setting. -/
def Obligations.GainCodeTable : Prop :=
  ([0, 1, 2, 3, 4, 5, 6, 7] : List GainCode).map fullScaleMilliVolts =
    [some 6144, some 4096, some 2048, some 1024, some 512, some 256, none, none] ∧
  ([0, 1, 2, 3, 4, 5, 6, 7] : List GainCode).map amplifierGain =
    [some (2, 3), some (1, 1), some (2, 1), some (4, 1), some (8, 1), some (16, 1), none, none] ∧
  ([0, 1, 2, 3, 4, 5, 6, 7] : List GainCode).map gainValid =
    [true, true, true, true, true, true, false, false] ∧
  ([0, 1, 2, 3, 4, 5] : List GainCode).map (fun g => placeField ads1x15Layout.pga g.toNat) =
    [0x0000, 0x0200, 0x0400, 0x0600, 0x0800, 0x0A00]

/-! ### The whole codec -/

/-- R18, R119: a command event is the transition function written on plain numbers, for every word
and every state. -/
def Obligations.CommandIsTransitionFunction : Prop :=
  ∀ (w : Cmd) (s : State),
    command w s = .next ((s.withGain (referenceCommand Config.params s.gain w).1).answer
      (referenceCommand Config.params s.gain w).2)

/-- R80 laws 1 and 2: a gain set is what `GETGAIN` answers and what the next configuration word
holds, however many other commands come between. -/
def Obligations.GainSurvivesUntilNextSetGain : Prop :=
  ∀ (g : GainCode) (ws : List Cmd) (s : State), g.toNat ≤ 5 →
    (∀ w ∈ ws, hasSetGainOpcode w = false) →
    ∃ t, runCommands (encode (.setGain g) :: ws) s = .next t ∧ t.gain = g ∧
      exec .getGain t = .next (t.answer ⟨zext16 g, .ok⟩) ∧
      (∀ (i : Instr) (u : State) (r : Response), isBuild i = true → exec i t = .next u →
        u.answerAfter t = some r → r.st = .ok → readField ads1x15Layout.pga r.res = g.toNat)

/-- The invariant holds at reset: the gain by R10 and R19; the bus log, which is empty there by the
model's choice, the spec having no such record (R17; log entry 2). -/
def Obligations.ResetMeetsTheInvariant : Prop := StateInv State.reset

/-- R10 with R25, R26: whatever the event, a step keeps the gain one of the six settings, and what
has crossed the bus a sequence of whole transactions of the two shapes and waits. That what has
crossed is kept in the state is the model's choice (log entry 2). -/
def Obligations.StepKeepsGainLegalAndBusWhole : Prop :=
  ∀ s t : State, StateInv s → step s = .next t → StateInv t

/-- 93 Part 1: "every reachable state accepts every next event": a run over offered events never
stops, in any state, and takes one event a step in order. That events are a list in the state is the
model's choice (log entry 1). -/
def Obligations.RunsOverOfferedEventsNeverStop : Prop :=
  ∀ (n : Nat) (s : State), (∀ e ∈ s.inbox, offered e = true) →
    ∃ t, Host.Core.run Sys2Proof.core n s = .next t ∧ t.inbox = s.inbox.drop n

/-! ### The device register space and the two transactions -/

/-- R24's definitions `splitBytes` and `joinBytes`: the most significant byte is the first of the two,
and splitting and joining undo each other. In which order the bytes cross the bus is said by
`RegWriteTransaction` and `RegReadTransaction`. -/
def Obligations.ByteOrderHighFirst : Prop :=
  (∀ v : Word, joinBytes (splitBytes v).1 (splitBytes v).2 = v ∧
    (splitBytes v).1.toNat = v.toNat / 256 ∧ (splitBytes v).2.toNat = v.toNat % 256) ∧
  (∀ b0 b1 : Byte, splitBytes (joinBytes b0 b1) = (b0, b1))

/-- R25: the five transport calls in order, after which the selected register holds the value; no
other register changes, and nothing of the codec does. That the conversion and the low-threshold
register take the value written is the model's reading (log entry 11), and that the other registers
keep theirs is the model's frame (log entry 11; log entry 19 for the conversion register). -/
def Obligations.RegWriteTransaction : Prop :=
  ∀ (ptr : Byte) (r : ChipRegister) (v : Word) (s : State), registerOf ptr = some r →
    ∃ t, handle (.regWrite ptr v) s = .next t ∧
      t.bus = s.bus ++ [.beginTransaction Config.devAddr, .writeByte ptr,
        .writeByte (v.extractLsb' 8 8), .writeByte (v.extractLsb' 0 8), .endTransaction] ∧
      chipRegister t.chip r = v ∧
      (∀ q : ChipRegister, q ≠ r → chipRegister t.chip q = chipRegister s.chip q) ∧
      t.gain = s.gain ∧ t.responses = s.responses ∧ t.inbox = s.inbox ∧ t.returned = s.returned

/-- R26, R28: the six transport calls in order, the two bytes joined high byte first, and a latched
alert cleared; the other registers and the codec are left alone. That the other registers and the
phase keep what they hold is the model's frame (log entry 11). -/
def Obligations.RegReadTransaction : Prop :=
  ∀ s : State, ∃ (t : State) (b0 b1 : Byte), handle (.regRead 0x00) s = .next t ∧
    t.bus = s.bus ++ [.beginTransaction Config.devAddr, .writeByte 0x00, .endTransaction,
      .requestBytes Config.devAddr 2, .readByte b0, .readByte b1] ∧
    t.returned = s.returned ++ [.raw (b0 ++ b1)] ∧
    t.chip.alertLatched = false ∧ t.chip.config = s.chip.config ∧
    t.chip.lowThreshold = s.chip.lowThreshold ∧ t.chip.highThreshold = s.chip.highThreshold ∧
    t.chip.phase = s.chip.phase ∧ t.gain = s.gain ∧ t.responses = s.responses ∧ t.inbox = s.inbox

/-- R22, R27, U10: pointer bytes 0x04 to 0xFF are refused, and so is a read of any register but the
conversion register. -/
def Obligations.AccessesNotOfferedAreRefused : Prop :=
  ∀ s : State,
    (∀ (ptr : Byte) (v : Word), 4 ≤ ptr.toNat →
      handle (.regWrite ptr v) s = .refused (.noSuchRegister ptr) ∧
      handle (.regRead ptr) s = .refused (.noSuchRegister ptr)) ∧
    handle (.regRead 0x01) s = .refused (.readNotOffered .config) ∧
    handle (.regRead 0x02) s = .refused (.readNotOffered .lowThreshold) ∧
    handle (.regRead 0x03) s = .refused (.readNotOffered .highThreshold)

/-- R29, R107: after a single-shot configuration word, a conversion register read is any value while
the waits since add up to less than the latency, and the conversion's result from then on. That only
waits pass time, and that the result is there once the latency has passed, are the model's readings
(log entries 6 and 7), and so is reading a word's MODE and OS whatever its other codes (entry 12). -/
def Obligations.ConversionWaitDecides : Prop :=
  ∀ (v : Word) (waits : List Nat) (s : State),
    readField ads1x15Layout.mode v = 1 → readField ads1x15Layout.os v = 1 →
    ∃ t u, handle (.regWrite 0x01 v) s = .next t ∧
      handle (.regRead 0x00) (waitAll waits t) = .next u ∧
      u.returned = s.returned ++ [.raw (if waits.sum < Config.convLatencyMs
        then Config.freeWord t.draws else Config.conversionResult t.draws)]

/-- R29: after a continuous-mode configuration word the chip goes on converting, whatever comes,
until it is reconfigured or loses its power. That a word's MODE is read whatever its other codes is
the model's reading (log entry 12), and that accesses to the other registers leave the configuration
as it is, the model's frame (log entry 11). -/
def Obligations.ContinuousUntilReconfigured : Prop :=
  (∀ (v : Word) (s t : State), readField ads1x15Layout.mode v = 0 →
    handle (.regWrite 0x01 v) s = .next t → t.chip.phase = .continuous) ∧
  (∀ (es : List HostEvent) (s t : State), (∀ e ∈ es, mayReconfigure e = false) →
    s.chip.phase = .continuous → runEvents es s = .next t →
      t.chip.phase = .continuous ∧ t.chip.config = s.chip.config)

/-- R30, R104: a power cycle of the chip changes nothing of the codec and leaves the chip without a
configuration; until one is written, a conversion register read is any value. The power cycle as an
event of its own (log entry 9) and the answer as a numbered draw (log entry 5) are the model's
form. -/
def Obligations.PowerCycleForgetsConfiguration : Prop :=
  ∀ (waits : List Nat) (s : State), ∃ t u, handle .chipPowerCycle s = .next t ∧
    t.gain = s.gain ∧ t.responses = s.responses ∧ t.bus = s.bus ∧ t.inbox = s.inbox ∧
    t.returned = s.returned ∧
    handle (.regRead 0x00) (waitAll waits t) = .next u ∧
    u.returned = s.returned ++ [.raw (Config.freeWord t.draws)]

/-! ### The host's sequences -/

/-- R109: on a valid channel one configuration write, one wait of the latency, one conversion read,
and the raw value shifted without sign extension; on an invalid channel 0 and nothing else. -/
def Obligations.ReadSingleEndedSequence : Prop :=
  ∀ (channel : Word) (s : State),
    (channel.toNat ≤ 3 → ∃ (t : State) (cfg raw : Word),
      runSession (.readSingleEnded channel) s = .next t ∧
      cfg = 0x8183 ||| lsl16 (0x0004 ||| channel) 12 ||| lsl16 (zext16 s.gain) 9 ∧
      t.bus = s.bus ++ regWriteOps 0x01 cfg ++ [.waitMilliseconds Config.convLatencyMs] ++
        regReadOps 0x00 raw ∧
      t.responses = s.responses ++ [⟨cfg, .ok⟩, ⟨lsr16 raw (shiftWidth Config.family), .ok⟩] ∧
      t.returned = s.returned ++
        [.unsignedSample (raw.toNat / 2 ^ shiftWidth Config.family)] ∧
      t.gain = s.gain) ∧
    (3 < channel.toNat → runSession (.readSingleEnded channel) s =
      .next ((s.answer ⟨0x0000, .invalidChannel⟩).giveBack (.unsignedSample 0)))

/-- R110: both differential reads, with the sample signed. -/
def Obligations.ReadDifferentialSequences : Prop :=
  ∀ s : State,
    ∀ op ∈ [(SessionOp.readDifferential01, (0x8183 : Word)), (.readDifferential23, 0xB183)],
    ∃ (t : State) (cfg raw : Word),
      runSession op.1 s = .next t ∧
      cfg = op.2 ||| lsl16 (zext16 s.gain) 9 ∧
      t.bus = s.bus ++ regWriteOps 0x01 cfg ++ [.waitMilliseconds Config.convLatencyMs] ++
        regReadOps 0x00 raw ∧
      t.responses = s.responses ++ [⟨cfg, .ok⟩, ⟨decodeSample Config.family raw, .ok⟩] ∧
      t.returned = s.returned ++
        [.signedSample (Int.fdiv (toInt16 raw) (2 ^ shiftWidth Config.family))] ∧
      t.gain = s.gain

/-- R111: a wait, a conversion read that clears a latched alert, a signed sample, and no
configuration word. That the config register then keeps what it holds is the model's frame (log
entry 11). -/
def Obligations.GetLastConversionSequence : Prop :=
  ∀ s : State, ∃ (t : State) (raw : Word),
    runSession .getLastConversionResults s = .next t ∧
    t.bus = s.bus ++ [.waitMilliseconds Config.convLatencyMs] ++ regReadOps 0x00 raw ∧
    t.responses = s.responses ++ [⟨decodeSample Config.family raw, .ok⟩] ∧
    t.returned = s.returned ++
      [.signedSample (Int.fdiv (toInt16 raw) (2 ^ shiftWidth Config.family))] ∧
    t.chip.alertLatched = false ∧ t.chip.config = s.chip.config ∧ t.gain = s.gain

/-- R112: threshold first, configuration second, no wait, the low-threshold register untouched; on
an invalid channel no write at all. Under `legacy_unset` the command never faults (last clause). That
the high-threshold register still holds the threshold after the configuration write, and that the
low-threshold register keeps what it holds, rest on the model's frame (log entry 11). -/
def Obligations.StartComparatorSequence : Prop :=
  (∀ (channel threshold : Word) (s : State),
    (channel.toNat ≤ 3 → ∃ (t : State) (cfg thr : Word),
      runSession (.startComparatorSingleEnded channel threshold) s = .next t ∧
      cfg = 0x0084 ||| lsl16 (0x0004 ||| channel) 12 ||| lsl16 (zext16 s.gain) 9 ∧
      thr = lsl16 threshold (shiftWidth Config.family) ∧
      t.bus = s.bus ++ regWriteOps 0x03 thr ++ regWriteOps 0x01 cfg ∧
      t.responses = s.responses ++ [⟨cfg, .ok⟩, ⟨thr, .ok⟩] ∧
      t.returned = s.returned ++ [.nothing] ∧
      t.chip.highThreshold = thr ∧ t.chip.config = cfg ∧
      t.chip.lowThreshold = s.chip.lowThreshold ∧ t.chip.phase = .continuous ∧
      t.gain = s.gain) ∧
    (3 < channel.toNat → runSession (.startComparatorSingleEnded channel threshold) s =
      .next ((s.answer ⟨0x0000, .invalidChannel⟩).giveBack .nothing))) ∧
  (∀ (family : Family) (g : GainCode) (c : Nat),
    ∃ v, cmpArmWord ⟨family, ads1x15Layout, .legacyUnset⟩ g c = .ok v)

/-- R107: the three readings keep the conversion wait: the raw value each of them reads is the
conversion's result, never the arbitrary value of a read made too early. That the result is there
once the latency has passed, and that it is an answer numbered by a count of draws, are the model's
form (log entries 5 and 6). -/
def Obligations.ReadingsKeepTheConversionWait : Prop :=
  ∀ (channel : Word) (s : State), channel.toNat ≤ 3 →
    ∀ op ∈ [SessionOp.readSingleEnded channel, .readDifferential01, .readDifferential23],
      ∃ (t : State) (cfg : Word), runSession op s = .next t ∧
        t.bus = s.bus ++ regWriteOps 0x01 cfg ++ [.waitMilliseconds Config.convLatencyMs] ++
          regReadOps 0x00 (Config.conversionResult (s.draws + 1))

/-- R113: the accessor pair, with no transaction. -/
def Obligations.SessionGainAccess : Prop :=
  ∀ (s : State) (g : GainCode),
    (g.toNat ≤ 5 → runSession (.setGain g) s =
      .next (((s.withGain g).answer ⟨zext16 g, .ok⟩).giveBack .nothing)) ∧
    (5 < g.toNat → runSession (.setGain g) s =
      .next ((s.answer ⟨0x0000, .invalidGain⟩).giveBack .nothing)) ∧
    runSession .getGain s =
      .next ((s.answer ⟨zext16 s.gain, .ok⟩).giveBack (.gain (zext16 s.gain)))

/-- R93: no session operation transacts after a fault: if any of its commands faulted, the bus and
the chip are as they were. -/
def Obligations.NoTransactionAfterFault : Prop :=
  ∀ (op : SessionOp) (s t : State) (r : Response), runSession op s = .next t →
    r ∈ t.responses.drop s.responses.length → r.st ≠ .ok →
      t.bus = s.bus ∧ t.chip = s.chip

/-- R115: a reading leaves the comparator disabled and the chip out of continuous conversion,
whatever was armed before. That the chip is idle again after the wait is the model's reading of R29
(log entry 6). -/
def Obligations.ReadingDisarmsComparator : Prop :=
  ∀ (channel : Word) (s : State), channel.toNat ≤ 3 →
    ∀ op ∈ [SessionOp.readSingleEnded channel, .readDifferential01, .readDifferential23],
      ∃ t, runSession op s = .next t ∧
        readField ads1x15Layout.cque t.chip.config = 0b11 ∧
        readField ads1x15Layout.mode t.chip.config = 1 ∧ t.chip.phase = .idle

/-- R108: a comparator armed before a `SETGAIN` keeps its old gain at the chip, while the codec
holds the new one. -/
def Obligations.ArmedGainIsStale : Prop :=
  ∀ (channel threshold : Word) (g : GainCode) (s : State), channel.toNat ≤ 3 → g.toNat ≤ 5 →
    ∃ t u, runSession (.startComparatorSingleEnded channel threshold) s = .next t ∧
      runSession (.setGain g) t = .next u ∧
      readField ads1x15Layout.pga u.chip.config = s.gain.toNat ∧ u.gain = g ∧ u.bus = t.bus
end

