-- ==== Sys2Proof/Laws/State.lean ====
section
/-! SUPPORT. One lemma per field per named update of the state, true by unfolding. -/

namespace Sys2Proof.Machine

@[simp] theorem State.withGain_gain (s : State) (g : GainCode) : (s.withGain g).gain = g := rfl
@[simp] theorem State.withGain_inbox (s : State) (g : GainCode) : (s.withGain g).inbox = s.inbox := rfl
@[simp] theorem State.withGain_responses (s : State) (g : GainCode) : (s.withGain g).responses = s.responses := rfl
@[simp] theorem State.withGain_chip (s : State) (g : GainCode) : (s.withGain g).chip = s.chip := rfl
@[simp] theorem State.withGain_bus (s : State) (g : GainCode) : (s.withGain g).bus = s.bus := rfl
@[simp] theorem State.withGain_returned (s : State) (g : GainCode) : (s.withGain g).returned = s.returned := rfl
@[simp] theorem State.withGain_draws (s : State) (g : GainCode) : (s.withGain g).draws = s.draws := rfl

@[simp] theorem State.withInbox_gain (s : State) (es : List HostEvent) : (s.withInbox es).gain = s.gain := rfl
@[simp] theorem State.withInbox_inbox (s : State) (es : List HostEvent) : (s.withInbox es).inbox = es := rfl
@[simp] theorem State.withInbox_responses (s : State) (es : List HostEvent) : (s.withInbox es).responses = s.responses := rfl
@[simp] theorem State.withInbox_chip (s : State) (es : List HostEvent) : (s.withInbox es).chip = s.chip := rfl
@[simp] theorem State.withInbox_bus (s : State) (es : List HostEvent) : (s.withInbox es).bus = s.bus := rfl
@[simp] theorem State.withInbox_returned (s : State) (es : List HostEvent) : (s.withInbox es).returned = s.returned := rfl
@[simp] theorem State.withInbox_draws (s : State) (es : List HostEvent) : (s.withInbox es).draws = s.draws := rfl

@[simp] theorem State.answer_gain (s : State) (r : Response) : (s.answer r).gain = s.gain := rfl
@[simp] theorem State.answer_inbox (s : State) (r : Response) : (s.answer r).inbox = s.inbox := rfl
@[simp] theorem State.answer_responses (s : State) (r : Response) : (s.answer r).responses = s.responses ++ [r] := rfl
@[simp] theorem State.answer_chip (s : State) (r : Response) : (s.answer r).chip = s.chip := rfl
@[simp] theorem State.answer_bus (s : State) (r : Response) : (s.answer r).bus = s.bus := rfl
@[simp] theorem State.answer_returned (s : State) (r : Response) : (s.answer r).returned = s.returned := rfl
@[simp] theorem State.answer_draws (s : State) (r : Response) : (s.answer r).draws = s.draws := rfl

@[simp] theorem State.withChip_gain (s : State) (c : Chip) : (s.withChip c).gain = s.gain := rfl
@[simp] theorem State.withChip_inbox (s : State) (c : Chip) : (s.withChip c).inbox = s.inbox := rfl
@[simp] theorem State.withChip_responses (s : State) (c : Chip) : (s.withChip c).responses = s.responses := rfl
@[simp] theorem State.withChip_chip (s : State) (c : Chip) : (s.withChip c).chip = c := rfl
@[simp] theorem State.withChip_bus (s : State) (c : Chip) : (s.withChip c).bus = s.bus := rfl
@[simp] theorem State.withChip_returned (s : State) (c : Chip) : (s.withChip c).returned = s.returned := rfl
@[simp] theorem State.withChip_draws (s : State) (c : Chip) : (s.withChip c).draws = s.draws := rfl

@[simp] theorem State.logBus_gain (s : State) (ops : List BusOp) : (s.logBus ops).gain = s.gain := rfl
@[simp] theorem State.logBus_inbox (s : State) (ops : List BusOp) : (s.logBus ops).inbox = s.inbox := rfl
@[simp] theorem State.logBus_responses (s : State) (ops : List BusOp) : (s.logBus ops).responses = s.responses := rfl
@[simp] theorem State.logBus_chip (s : State) (ops : List BusOp) : (s.logBus ops).chip = s.chip := rfl
@[simp] theorem State.logBus_bus (s : State) (ops : List BusOp) : (s.logBus ops).bus = s.bus ++ ops := rfl
@[simp] theorem State.logBus_returned (s : State) (ops : List BusOp) : (s.logBus ops).returned = s.returned := rfl
@[simp] theorem State.logBus_draws (s : State) (ops : List BusOp) : (s.logBus ops).draws = s.draws := rfl

@[simp] theorem State.giveBack_gain (s : State) (v : Returned) : (s.giveBack v).gain = s.gain := rfl
@[simp] theorem State.giveBack_inbox (s : State) (v : Returned) : (s.giveBack v).inbox = s.inbox := rfl
@[simp] theorem State.giveBack_responses (s : State) (v : Returned) : (s.giveBack v).responses = s.responses := rfl
@[simp] theorem State.giveBack_chip (s : State) (v : Returned) : (s.giveBack v).chip = s.chip := rfl
@[simp] theorem State.giveBack_bus (s : State) (v : Returned) : (s.giveBack v).bus = s.bus := rfl
@[simp] theorem State.giveBack_returned (s : State) (v : Returned) : (s.giveBack v).returned = s.returned ++ [v] := rfl
@[simp] theorem State.giveBack_draws (s : State) (v : Returned) : (s.giveBack v).draws = s.draws := rfl

@[simp] theorem State.draw_gain (s : State) (n : Nat) : (s.draw n).gain = s.gain := rfl
@[simp] theorem State.draw_inbox (s : State) (n : Nat) : (s.draw n).inbox = s.inbox := rfl
@[simp] theorem State.draw_responses (s : State) (n : Nat) : (s.draw n).responses = s.responses := rfl
@[simp] theorem State.draw_chip (s : State) (n : Nat) : (s.draw n).chip = s.chip := rfl
@[simp] theorem State.draw_bus (s : State) (n : Nat) : (s.draw n).bus = s.bus := rfl
@[simp] theorem State.draw_returned (s : State) (n : Nat) : (s.draw n).returned = s.returned := rfl
@[simp] theorem State.draw_draws (s : State) (n : Nat) : (s.draw n).draws = s.draws + n := rfl

/-- Two states with the same fields are the same state. -/
theorem State.eq_of_fields {s t : State} (hg : s.gain = t.gain) (hi : s.inbox = t.inbox)
    (hr : s.responses = t.responses) (hc : s.chip = t.chip) (hb : s.bus = t.bus)
    (hv : s.returned = t.returned) (hd : s.draws = t.draws) : s = t := by
  cases s; cases t; simp_all

@[simp] theorem State.withGain_self (s : State) : s.withGain s.gain = s := rfl

@[simp] theorem State.withInbox_withInbox (s : State) (es fs : List HostEvent) :
    (s.withInbox es).withInbox fs = s.withInbox fs := rfl

@[simp] theorem State.withInbox_self (s : State) : s.withInbox s.inbox = s := rfl

/-- The host that issued one command receives the one response given to it. -/
@[simp] theorem State.answerAfter_answer (s : State) (r : Response) :
    (s.answer r).answerAfter s = some r := by
  simp [State.answerAfter]

/-- The gain a command writes does not hide its response. -/
@[simp] theorem State.answerAfter_withGain_answer (s : State) (g : GainCode) (r : Response) :
    ((s.withGain g).answer r).answerAfter s = some r := by
  simp [State.answerAfter]

end Sys2Proof.Machine
end

