-- ==== Sys2Proof/Laws/Ops.lean ====
section
/-! SUPPORT. One lemma per shared operation: what it does, so that nobody unfolds it. -/

namespace Sys2Proof.Machine

@[simp] theorem andThen_next (s : State) (k : State → Out) : andThen (.next s) k = k s := rfl

@[simp] theorem andThen_refused (r : Refusal) (k : State → Out) :
    andThen (.refused r) k = .refused r := rfl

/-- A continuation that gave a next state was reached from a next state. -/
theorem andThen_eq_next {o : Out} {k : State → Out} {t : State} (h : andThen o k = .next t) :
    ∃ s, o = .next s ∧ k s = .next t := by
  cases o with
  | next s => exact ⟨s, rfl, h⟩
  | fault f => cases f
  | refused r => cases h

@[simp] theorem respond_eq (v : Word) (s : State) : respond v s = .next (s.answer ⟨v, .ok⟩) := rfl

@[simp] theorem raiseFault_eq (f : CodecFault) (s : State) :
    raiseFault f s = .next (s.answer ⟨0, faultStatus f⟩) := rfl

@[simp] theorem faultStatus_ne_ok (f : CodecFault) : faultStatus f ≠ .ok := by cases f <;> decide

/-- The response a computed result stands for. -/
def responseOf (r : Except CodecFault Word) : Response :=
  match r with
  | .ok v => ⟨v, .ok⟩
  | .error f => ⟨0, faultStatus f⟩

/-- A command that writes no state answers once and changes nothing else. -/
@[simp] theorem finish_eq (r : Except CodecFault Word) (s : State) :
    finish r s = .next (s.answer (responseOf r)) := by
  cases r <;> rfl

@[simp] theorem resetCodec_eq (s : State) : resetCodec s = s.withGain 0 := rfl

/-- `channelOf` accepts exactly 0 to 3. -/
theorem channelOf_of_lt {c : Nat} (h : c < 4) : channelOf c = some ⟨c, h⟩ := by simp [channelOf, h]

theorem channelOf_of_le {c : Nat} (h : 3 < c) : channelOf c = none := by
  simp [channelOf]; omega

end Sys2Proof.Machine
end

