-- ==== Sys2Proof/Laws/Bus.lean ====
section
/-! SUPPORT. What the two transactions and the wait do: one lemma each, cited instead of unfolding. -/

namespace Sys2Proof.Machine

@[simp] theorem registerOf_pointerOf (r : ChipRegister) : registerOf (pointerOf r) = some r := by
  cases r <;> rfl

/-- Only the register's own pointer byte selects it. -/
theorem pointerOf_registerOf {ptr : Byte} {r : ChipRegister} (h : registerOf ptr = some r) :
    ptr = pointerOf r := by
  unfold registerOf at h
  split at h <;> simp_all [pointerOf] <;> subst h <;> apply BitVec.eq_of_toNat_eq <;> simpa

/-- All that `RegWrite` can do on a register that exists. -/
theorem regWrite_next {ptr : Byte} {r : ChipRegister} (h : registerOf ptr = some r) (v : Word)
    (s : State) :
    regWrite ptr v s = .next (((s.logBus (regWriteOps ptr v)).withChip
      (chipWrite Config.params.layout r (joinBytes (splitBytes v).1 (splitBytes v).2) s.draws
        s.chip)).draw 1) := by
  simp [regWrite, h]

/-- A `RegWrite` that goes through was given a register that exists. -/
theorem regWrite_eq_next {ptr : Byte} {v : Word} {s t : State} (h : regWrite ptr v s = .next t) :
    ∃ r, registerOf ptr = some r ∧ t = ((s.logBus (regWriteOps ptr v)).withChip
      (chipWrite Config.params.layout r (joinBytes (splitBytes v).1 (splitBytes v).2) s.draws
        s.chip)).draw 1 := by
  cases hr : registerOf ptr with
  | none => simp [regWrite, hr] at h
  | some r => exact ⟨r, rfl, by simpa [regWrite, hr] using h.symm⟩

/-- All that `RegRead(0x00)` can do. -/
theorem regRead_conversion (s : State) (k : Word → State → Out) :
    regRead (pointerOf .conversion) s k =
      k (joinBytes (splitBytes (conversionAnswer Config.convLatencyMs s.chip s.draws)).1
          (splitBytes (conversionAnswer Config.convLatencyMs s.chip s.draws)).2)
        (afterRegRead (conversionAnswer Config.convLatencyMs s.chip s.draws) s) := rfl

/-- A `RegRead` that goes through read the conversion register. -/
theorem regRead_eq_next {ptr : Byte} {s t : State} {k : Word → State → Out}
    (h : regRead ptr s k = .next t) : ptr = pointerOf .conversion := by
  cases hr : registerOf ptr with
  | none => simp [regRead, hr] at h
  | some r =>
    cases r with
    | conversion => exact pointerOf_registerOf hr
    | config => simp [regRead, hr] at h
    | lowThreshold => simp [regRead, hr] at h
    | highThreshold => simp [regRead, hr] at h

@[simp] theorem waitMs_gain (ms : Nat) (s : State) : (waitMs ms s).gain = s.gain := rfl
@[simp] theorem waitMs_inbox (ms : Nat) (s : State) : (waitMs ms s).inbox = s.inbox := rfl
@[simp] theorem waitMs_responses (ms : Nat) (s : State) :
    (waitMs ms s).responses = s.responses := rfl
@[simp] theorem waitMs_chip (ms : Nat) (s : State) :
    (waitMs ms s).chip = chipWait Config.convLatencyMs ms s.chip := rfl
@[simp] theorem waitMs_bus (ms : Nat) (s : State) :
    (waitMs ms s).bus = s.bus ++ [.waitMilliseconds ms] := rfl
@[simp] theorem waitMs_returned (ms : Nat) (s : State) : (waitMs ms s).returned = s.returned := rfl
@[simp] theorem waitMs_draws (ms : Nat) (s : State) : (waitMs ms s).draws = s.draws := rfl

@[simp] theorem afterRegRead_gain (v : Word) (s : State) : (afterRegRead v s).gain = s.gain := rfl
@[simp] theorem afterRegRead_inbox (v : Word) (s : State) :
    (afterRegRead v s).inbox = s.inbox := rfl
@[simp] theorem afterRegRead_responses (v : Word) (s : State) :
    (afterRegRead v s).responses = s.responses := rfl
@[simp] theorem afterRegRead_chip (v : Word) (s : State) :
    (afterRegRead v s).chip = chipReadConversion v s.chip := rfl
@[simp] theorem afterRegRead_bus (v : Word) (s : State) :
    (afterRegRead v s).bus = s.bus ++ regReadOps (pointerOf .conversion) v := rfl
@[simp] theorem afterRegRead_returned (v : Word) (s : State) :
    (afterRegRead v s).returned = s.returned := rfl
@[simp] theorem afterRegRead_draws (v : Word) (s : State) :
    (afterRegRead v s).draws = s.draws + 1 := rfl

/-- A wait changes the phase of the chip and nothing else of it. -/
@[simp] theorem chipWait_config (latency ms : Nat) (c : Chip) :
    (chipWait latency ms c).config = c.config := by
  unfold chipWait; split <;> rfl
@[simp] theorem chipWait_lowThreshold (latency ms : Nat) (c : Chip) :
    (chipWait latency ms c).lowThreshold = c.lowThreshold := by
  unfold chipWait; split <;> rfl
@[simp] theorem chipWait_highThreshold (latency ms : Nat) (c : Chip) :
    (chipWait latency ms c).highThreshold = c.highThreshold := by
  unfold chipWait; split <;> rfl
@[simp] theorem chipWait_configured (latency ms : Nat) (c : Chip) :
    (chipWait latency ms c).configured = c.configured := by
  unfold chipWait; split <;> rfl
@[simp] theorem chipWait_alertLatched (latency ms : Nat) (c : Chip) :
    (chipWait latency ms c).alertLatched = c.alertLatched := by
  unfold chipWait; split <;> rfl

end Sys2Proof.Machine
end

