-- ==== Sys2Proof/Laws/Decode.lean ====
section
/-! SUPPORT. The two fields of a command word as numbers, and a word put together from them. -/

namespace Sys2Proof

theorem cmdWord_toNat (op : BitVec 4) (arg : Word) :
    (cmdWord op arg).toNat = op.toNat * 65536 + arg.toNat := by
  have happend : (cmdWord op arg).toNat = op.toNat <<< 16 ||| arg.toNat := BitVec.toNat_append op arg
  rw [happend, ← Nat.shiftLeft_add_eq_or_of_lt arg.isLt, Nat.shiftLeft_eq]

theorem opField_toNat (w : Cmd) : (opField w).toNat = w.toNat / 65536 := by
  have hw := w.isLt
  simp [opField, Nat.shiftRight_eq_div_pow]; omega

theorem argField_toNat (w : Cmd) : (argField w).toNat = w.toNat % 65536 := by simp [argField]

@[simp] theorem opField_cmdWord (op : BitVec 4) (arg : Word) : opField (cmdWord op arg) = op := by
  apply BitVec.eq_of_toNat_eq
  have harg := arg.isLt
  rw [opField_toNat, cmdWord_toNat]; omega

@[simp] theorem argField_cmdWord (op : BitVec 4) (arg : Word) : argField (cmdWord op arg) = arg := by
  apply BitVec.eq_of_toNat_eq
  have harg := arg.isLt
  rw [argField_toNat, cmdWord_toNat]; omega

/-- A word is its two fields. -/
theorem cmdWord_fields (w : Cmd) : cmdWord (opField w) (argField w) = w := by
  apply BitVec.eq_of_toNat_eq
  rw [cmdWord_toNat, opField_toNat, argField_toNat]; omega

/-- `arg[15:3] = 0`, the form of `SETGAIN`'s operand, as a bound (R38). -/
theorem strayBits_eq_zero_iff (arg : Word) : arg.extractLsb' 3 13 = 0 ↔ arg.toNat < 8 := by
  have harg := arg.isLt
  constructor
  · intro h
    have hnat := congrArg BitVec.toNat h
    simp [Nat.shiftRight_eq_div_pow] at hnat; omega
  · intro h
    apply BitVec.eq_of_toNat_eq
    simp [Nat.shiftRight_eq_div_pow]; omega

end Sys2Proof
end

