-- ==== Sys2Proof/Laws/PerInstr.lean ====
section
/-! SUPPORT. Families of statements about the instruction as syntax, one lemma per constructor. -/

namespace Sys2Proof.Laws

/-- `RowMatch`: the word the encoder writes for an instruction selects the instruction's own row of
the opcode table (R37). -/
def RowMatch.Statement (i : Instr) : Prop := (rowOf i).selectedBy (encode i) = true

/-- A word of format `CMD20` under a mask that keeps the opcode and part of the operand. -/
theorem cmdWord_and (op m : BitVec 4) (arg n : Word) :
    cmdWord op arg &&& cmdWord m n = cmdWord (op &&& m) (arg &&& n) :=
  BitVec.and_append

/-- A row that looks at the opcode alone takes every operand. -/
theorem selectedBy_opcode (name : String) (op : BitVec 4) (arg : Word) :
    (OpcodeRow.mk name (cmdWord op 0) 0xF0000).selectedBy (cmdWord op arg) = true := by
  have hmask : (0xF0000 : Cmd) = cmdWord 0xF 0 := by decide
  have hop : op &&& 0xF = op := by revert op; decide
  have harg : arg &&& 0 = 0 := BitVec.and_zero
  exact beq_iff_eq.mpr (by rw [hmask, cmdWord_and, hop, harg])

theorem RowMatch.buildSe (c : Nat) : RowMatch.Statement (.buildSe c) :=
  selectedBy_opcode "BUILD.SE" 0x1 _

theorem RowMatch.buildD01 : RowMatch.Statement .buildD01 := by
  simp only [RowMatch.Statement]; decide

theorem RowMatch.buildD23 : RowMatch.Statement .buildD23 := by
  simp only [RowMatch.Statement]; decide

theorem RowMatch.buildCmp (c : Nat) : RowMatch.Statement (.buildCmp c) :=
  selectedBy_opcode "BUILD.CMP" 0x4 _

theorem RowMatch.decode (raw : Word) : RowMatch.Statement (.decode raw) :=
  selectedBy_opcode "DECODE" 0x5 _

theorem RowMatch.decodeU (raw : Word) : RowMatch.Statement (.decodeU raw) :=
  selectedBy_opcode "DECODEU" 0x6 _

theorem RowMatch.encThr (t : Word) : RowMatch.Statement (.encThr t) :=
  selectedBy_opcode "ENCTHR" 0x7 _

theorem RowMatch.setGain (g : GainCode) : RowMatch.Statement (.setGain g) := by
  simp only [RowMatch.Statement]; revert g; decide

theorem RowMatch.getGain : RowMatch.Statement .getGain := by
  simp only [RowMatch.Statement]; decide

end Sys2Proof.Laws
end

