-- ==== Sys2Proof/Laws/Step.lean ====
section
/-! SUPPORT. What a step does, by what is pending. -/

namespace Sys2Proof.Machine

theorem step_of_pending {s : State} {e : HostEvent} {rest : List HostEvent}
    (h : s.inbox = e :: rest) : step s = handle e (s.withInbox rest) := by
  simp [step, h]

/-- Every step either finds nothing pending or handles the first pending event. -/
theorem step_cases (s : State) :
    (s.inbox = [] ∧ step s = .next s) ∨
      ∃ e rest, s.inbox = e :: rest ∧ step s = handle e (s.withInbox rest) := by
  cases h : s.inbox with
  | nil => exact .inl ⟨rfl, by simp [step, h]⟩
  | cons e rest => exact .inr ⟨e, rest, rfl, step_of_pending h⟩

/-- A run goes on from the next state of a step that has one. -/
theorem run_of_step_next {s t : State} (h : step s = .next t) (n : Nat) :
    Host.Core.run Sys2Proof.core (n + 1) s = Host.Core.run Sys2Proof.core n t := by
  have hcore : Sys2Proof.core.step s = .next t := h
  simp only [Host.Core.run, hcore]

end Sys2Proof.Machine
end

