-- ==== Sys2Proof/Tests/Slice0.lean ====
section
/-! SUPPORT. Tests of the model's own. Every expected value is the spec's: the vector or the rule it
is taken from stands beside it. -/

namespace Sys2Proof.Tests

open Sys2Proof.Machine

/-! ### Form -/

/-- R38: a channel is a 16-bit operand. -/
theorem test_wellFormed_buildSe : WellFormed (.buildSe 65535) = true ∧
    WellFormed (.buildSe 65536) = false := by decide

theorem test_wellFormed_buildCmp : WellFormed (.buildCmp 65535) = true ∧
    WellFormed (.buildCmp 65536) = false := by decide

/-! ### Decoding: each word written out bit by bit from the patterns of R37 -/

/-- `0001cccccccccccccccc` -/
theorem test_decode_buildSe : decode 0b00010000000000000011 = .ok (.buildSe 3) := by decide
/-- `00100000000000000000` -/
theorem test_decode_buildD01 : decode 0b00100000000000000000 = .ok .buildD01 := by decide
/-- `00110000000000000000` -/
theorem test_decode_buildD23 : decode 0b00110000000000000000 = .ok .buildD23 := by decide
/-- `0100cccccccccccccccc` -/
theorem test_decode_buildCmp : decode 0b01000000000011001000 = .ok (.buildCmp 200) := by decide
/-- `0101rrrrrrrrrrrrrrrr` -/
theorem test_decode_decode : decode 0b01011100001101010000 = .ok (.decode 0xC350) := by decide
/-- `0110rrrrrrrrrrrrrrrr` -/
theorem test_decode_decodeU : decode 0b01101000000000001111 = .ok (.decodeU 0x800F) := by decide
/-- `0111tttttttttttttttt` -/
theorem test_decode_encThr : decode 0b01111111110000011000 = .ok (.encThr 0xFC18) := by decide
/-- `10000000000000000ggg` -/
theorem test_decode_setGain : decode 0b10000000000000000101 = .ok (.setGain 5) := by decide
/-- `10010000000000000000` -/
theorem test_decode_getGain : decode 0b10010000000000000000 = .ok .getGain := by decide

/-- One word of each class of R50: V61, V63, V10, V13, V55, V57, V60. -/
theorem test_decode_illegal :
    [0x00000, 0xA0000, 0x20001, 0x38000, 0x80008, 0x88002, 0x90001].map (decodeTableWord 20) =
      [none, none, none, none, none, none, none] := by decide

/-! ### One step of each command -/

/-- The machine at reset with another gain. -/
def atGain (g : GainCode) : State := State.reset.withGain g

/-- One step over one command word, from a gain: the gain after and the responses given. -/
def answerTo (g : GainCode) (w : Nat) : Option (GainCode × List Response) :=
  match step ((atGain g).withFetchWord 20 w) with
  | .next t => some (t.gain, t.responses)
  | .fault _ => none
  | .refused _ => none

/-- V3. -/
theorem test_buildSe : answerTo 5 0x10002 = some (5, [⟨0xEB83, .ok⟩]) := by decide
/-- V6: "the operand is the whole 16-bit `arg`, not its low 2 bits". -/
theorem test_buildSe_fault : answerTo 3 0x1FFFF = some (3, [⟨0, .invalidChannel⟩]) := by decide
/-- V9. -/
theorem test_buildD01 : answerTo 3 0x20000 = some (3, [⟨0x8783, .ok⟩]) := by decide
/-- V10. -/
theorem test_buildD01_stray : answerTo 0 0x20001 = some (0, [⟨0, .illegalCommand⟩]) := by decide
/-- V12. -/
theorem test_buildD23 : answerTo 2 0x30000 = some (2, [⟨0xB583, .ok⟩]) := by decide
/-- V16. -/
theorem test_buildCmp : answerTo 4 0x40003 = some (4, [⟨0x7884, .ok⟩]) := by decide
/-- V18. -/
theorem test_buildCmp_fault : answerTo 0 0x40004 = some (0, [⟨0, .invalidChannel⟩]) := by decide
/-- V51. -/
theorem test_setGain : answerTo 0 0x80002 = some (2, [⟨2, .ok⟩]) := by decide
/-- V53: "no aliasing to code 5". -/
theorem test_setGain_fault : answerTo 3 0x80006 = some (3, [⟨0, .invalidGain⟩]) := by decide
/-- V56: decode fails first. -/
theorem test_setGain_priority : answerTo 3 0x80016 = some (3, [⟨0, .illegalCommand⟩]) := by decide
/-- V58. -/
theorem test_getGain : answerTo 4 0x90000 = some (4, [⟨4, .ok⟩]) := by decide

/-- V20 and V19: the policy `legacy_unset`, which this hardware does not take. -/
theorem test_legacyUnset (f : Family) :
    cmpArmWord ⟨f, ads1x15Layout, .legacyUnset⟩ 3 200 = .ok 0x0684 ∧
    cmpArmWord ⟨f, ads1x15Layout, .legacyUnset⟩ 0 4 = .ok 0x0084 := by cases f <;> decide

/-- V29, V27, V25: both families. -/
theorem test_decodeSample :
    [0xC350, 0x8000, 0x7FF5].map (decodeSample .family12) = [0xFC35, 0xF800, 0x07FF] ∧
    [0xC350, 0x8000, 0x7FF5].map (decodeSample .family16) = [0xC350, 0x8000, 0x7FF5] := by decide

/-- V36, V34, V37: both families. -/
theorem test_decodeUnsigned :
    [0xC350, 0x8000, 0xFFFF].map (decodeUnsigned .family12) = [0x0C35, 0x0800, 0x0FFF] ∧
    [0xC350, 0x8000, 0xFFFF].map (decodeUnsigned .family16) = [0xC350, 0x8000, 0xFFFF] := by decide

/-- V40, V43, V45: both families. -/
theorem test_encodeThreshold :
    [0xFC18, 0x0800, 0x1234].map (encodeThreshold .family12) = [0xC180, 0x8000, 0x2340] ∧
    [0xFC18, 0x0800, 0x1234].map (encodeThreshold .family16) = [0xFC18, 0x0800, 0x1234] := by decide

/-- The commands that read the family, in whichever family was built: V29, V36, V40. -/
theorem test_decode_step (h : Config.family = .family12) :
    answerTo 1 0x5C350 = some (1, [⟨0xFC35, .ok⟩]) := by
  show some ((1 : GainCode), [Response.mk (decodeSample Config.family 0xC350) .ok]) = _
  rw [h]; decide

theorem test_decodeU_step (h : Config.family = .family12) :
    answerTo 1 0x6C350 = some (1, [⟨0x0C35, .ok⟩]) := by
  show some ((1 : GainCode), [Response.mk (decodeUnsigned Config.family 0xC350) .ok]) = _
  rw [h]; decide

theorem test_encThr_step (h : Config.family = .family12) :
    answerTo 1 0x7FC18 = some (1, [⟨0xC180, .ok⟩]) := by
  show some ((1 : GainCode), [Response.mk (encodeThreshold Config.family 0xFC18) .ok]) = _
  rw [h]; decide

/-! ### Reset, bits, bus -/

/-- V65 (R101): reset from gain 5, no response. -/
theorem test_reset : handle (.reset .rst) (atGain 5) = .next State.reset := rfl

/-- R16: nothing pending, nothing happens. -/
theorem test_idle : step State.reset = .next State.reset := rfl

/-- R8: the corners of the two's complement reading. -/
theorem test_toInt16 : [0x8000, 0x7FFF, 0xFFFF, 0x0000].map toInt16 = [-32768, 32767, -1, 0] ∧
    fromInt16 (-1000) = 0xFC18 := by decide

/-- P1 step 2: "bytes on the bus after the address: 0x01, 0xC1, 0x83". -/
theorem test_regWriteOps : regWriteOps 0x01 0xC183 =
    [.beginTransaction Config.devAddr, .writeByte 0x01, .writeByte 0xC1, .writeByte 0x83,
     .endTransaction] := rfl

/-- P1 step 4: the two bytes 0xC3, 0x50 are the raw value 0xC350. -/
theorem test_joinBytes : joinBytes 0xC3 0x50 = 0xC350 := by decide

/-- R55: the field check of V3, bit by bit. -/
theorem test_cfgPack : cfgPack 0b1 0b110 0b101 0b1 0b100 0b0 0b0 0b0 0b11 = 0xEB83 := by decide

/-- S5: `readSingleEnded(4)` "returns `0` and performs zero bus transactions". -/
theorem test_readSingleEnded_fault : runSession (.readSingleEnded 4) State.reset =
    .next ((State.reset.answer ⟨0, .invalidChannel⟩).giveBack (.unsignedSample 0)) := rfl

/-- R53: the assembler's negative threshold of V48. -/
theorem test_assembler : assembleLine "ENCTHR -32768".toList = some 0x78000 := by decide

/-! ### Witnesses: concrete values that meet all the hypotheses of each statement, at the ends of the
ranges of its clauses -/

theorem witness_StepRunsDecodedCommand :
    (State.reset.withInbox [.command 0x90000]).inbox = .command 0x90000 :: [] ∧
    decode 0x90000 = .ok .getGain ∧ decodeTableWord 20 0x90000 = some .getGain := by decide

theorem witness_StepTakesTheNextEvent :
    State.reset.inbox = [] ∧ (State.reset.withInbox [.wait 1]).inbox = .wait 1 :: [] := by decide

/-- The first and the last word of each class of R89, and the legal words next to them. -/
theorem witness_IllegalWordsRaise :
    [0x00000, 0x0FFFF, 0xA0000, 0xFFFFF, 0x20001, 0x2FFFF, 0x30001, 0x90001, 0x80008, 0x8FFFF].map
      (fun n => (decodeTableWord 20 n).isSome) =
        [false, false, false, false, false, false, false, false, false, false] ∧
    [0x10000, 0x9 * 0x10000, 0x20000, 0x30000, 0x80007].map
      (fun n => (decodeTableWord 20 n).isSome) = [true, true, true, true, true] ∧
    decode 0x00000 = .error (.reservedOpcode 0) := by decide

theorem witness_DecodeOfEncode :
    WellFormed (.buildSe 0) = true ∧ WellFormed (.buildCmp 65535) = true ∧
    WellFormed .buildD01 = true ∧ WellFormed .buildD23 = true ∧
    WellFormed (.decode 0xFFFF) = true ∧ WellFormed (.decodeU 0) = true ∧
    WellFormed (.encThr 0x8000) = true ∧ WellFormed (.setGain 7) = true ∧
    WellFormed .getGain = true := by decide

theorem witness_EncodeOfDecode : decode 0x1FFFF = .ok (.buildSe 65535) := by decide

/-- `BuildSingleEnded`, `BuildComparatorArm`: channels 3, 4 and 65535. -/
theorem witness_channels :
    (3 ≤ 3 ∧ 3 < 65536) ∧ (3 < 4 ∧ 4 < 65536) ∧ (3 < 65535 ∧ 65535 < 65536) ∧
    (3 : Word).toNat ≤ 3 := by decide

/-- `BuildPair01`, `BuildPair23`, `GetGainReads`: an operand that is not zero. -/
theorem witness_strayOperand : (0x0001 : Word) ≠ 0 ∧ (0x8000 : Word) ≠ 0 ∧
    GainLegal State.reset ∧ GainLegal (atGain 5) := by decide

theorem witness_SetGainWritesOrRefuses :
    (0 : GainCode).toNat ≤ 5 ∧ (5 : GainCode).toNat ≤ 5 ∧ 5 < (6 : GainCode).toNat ∧
    5 < (7 : GainCode).toNat ∧ (0x0008 : Word).extractLsb' 3 13 ≠ 0 ∧
    (0x8002 : Word).extractLsb' 3 13 ≠ 0 := by decide

/-- `CommandFrame`, `CommandsTouchNoMemory`: commands that give a next state. -/
theorem witness_CommandFrame :
    exec (.setGain 5) State.reset = .next ((State.reset.withGain 5).answer ⟨5, .ok⟩) ∧
    exec .getGain State.reset = .next (State.reset.answer ⟨0, .ok⟩) := ⟨rfl, rfl⟩

theorem witness_ResponseDependsOnGainAndWord :
    (atGain 2).gain = ((atGain 2).answer ⟨1, .ok⟩).gain ∧
    atGain 2 ≠ (atGain 2).answer ⟨1, .ok⟩ := by decide

/-- `FaultEntryChangesNothing`, `FaultsAreNotSticky`: each of the three faults. -/
theorem witness_FaultEntryChangesNothing :
    (command 0x10004 (atGain 3) = .next ((atGain 3).answer ⟨0, .invalidChannel⟩) ∧
      ((atGain 3).answer ⟨0, .invalidChannel⟩).answerAfter (atGain 3) =
        some ⟨0, .invalidChannel⟩ ∧ Status.invalidChannel ≠ .ok) ∧
    (command 0x80006 (atGain 3) = .next ((atGain 3).answer ⟨0, .invalidGain⟩) ∧
      ((atGain 3).answer ⟨0, .invalidGain⟩).answerAfter (atGain 3) =
        some ⟨0, .invalidGain⟩ ∧ Status.invalidGain ≠ .ok) ∧
    (command 0xB1234 (atGain 3) = .next ((atGain 3).answer ⟨0, .illegalCommand⟩) ∧
      ((atGain 3).answer ⟨0, .illegalCommand⟩).answerAfter (atGain 3) =
        some ⟨0, .illegalCommand⟩ ∧ Status.illegalCommand ≠ .ok) :=
  ⟨⟨rfl, rfl, by decide⟩, ⟨rfl, rfl, by decide⟩, ⟨rfl, rfl, by decide⟩⟩

/-- The ends of the two families' sample ranges; a raw value with bit 15 clear; two raw values that
differ in the discarded bits alone. -/
theorem witness_UnpackerLaws :
    (-2 ^ (15 - shiftWidth .family12) ≤ (-2048 : Int) ∧
      (-2048 : Int) ≤ 2 ^ (15 - shiftWidth .family12) - 1) ∧
    (-2 ^ (15 - shiftWidth .family12) ≤ (2047 : Int) ∧
      (2047 : Int) ≤ 2 ^ (15 - shiftWidth .family12) - 1) ∧
    (-2 ^ (15 - shiftWidth .family16) ≤ (-32768 : Int) ∧
      (32767 : Int) ≤ 2 ^ (15 - shiftWidth .family16) - 1) ∧
    (0x7FFF : Word).getLsbD 15 = false ∧ shiftWidth .family16 = 0 ∧
    (∀ n, shiftWidth .family12 ≤ n → (0xC35F : Word).getLsbD n = (0xC350 : Word).getLsbD n) ∧
    11 ≤ 15 - shiftWidth .family12 := by
  refine ⟨by decide, by decide, by decide, by decide, rfl, fun n hn => ?_, by decide⟩
  by_cases h : n < 16
  · have hcases : ∀ m : Fin 16, 4 ≤ m.val →
        (0xC35F : Word).getLsbD m.val = (0xC350 : Word).getLsbD m.val := by decide
    exact hcases ⟨n, h⟩ hn
  · rw [BitVec.getLsbD_of_ge _ _ (by omega), BitVec.getLsbD_of_ge _ _ (by omega)]

/-- R76: 2047 and -2048 are representable in the 12-bit family. -/
theorem witness_ThresholdLaws :
    (-2 ^ (15 - shiftWidth .family12) ≤ toInt16 0x07FF ∧
      toInt16 0x07FF ≤ 2 ^ (15 - shiftWidth .family12) - 1) ∧
    (-2 ^ (15 - shiftWidth .family12) ≤ toInt16 0xF800 ∧
      toInt16 0xF800 ≤ 2 ^ (15 - shiftWidth .family12) - 1) := by decide

theorem witness_PackerLaws :
    isBuild (.buildCmp 3) = true ∧ GainLegal (atGain 5) ∧
    exec (.buildCmp 3) (atGain 5) = .next ((atGain 5).answer ⟨0x7A84, .ok⟩) ∧
    ((atGain 5).answer ⟨0x7A84, .ok⟩).answerAfter (atGain 5) = some ⟨0x7A84, .ok⟩ ∧
    buildConfig ads1x15Layout 5 (.ch 3) .cmpArm = buildConfig ads1x15Layout 5 (.ch 3) .cmpArm :=
  ⟨rfl, by decide, rfl, rfl, rfl⟩

/-- Another admissible layout: a one-hot multiplexer code of four bits (the reading C4 leaves to "a
reader who insists"), with fewer bits for the data rate. -/
def oneHotLayout : CfgLayout :=
  { ads1x15Layout with
    os := ⟨0, 1⟩, mux := ⟨1, 4⟩, pga := ⟨5, 3⟩, mode := ⟨8, 1⟩, dr := ⟨9, 1⟩, cmode := ⟨10, 1⟩,
    cpol := ⟨11, 1⟩, clat := ⟨12, 1⟩, cque := ⟨13, 2⟩, dr1600 := 1,
    muxCh0 := 1, muxCh1 := 2, muxCh2 := 4, muxCh3 := 8, muxPair01 := 3, muxPair23 := 12 }

/-- `PackerWordTable` too: the gain codes 0 and 5. -/
theorem witness_EveryLegalLayoutPacks :
    LayoutLegal ads1x15Layout ∧ LayoutLegal oneHotLayout ∧ (0 : GainCode).toNat ≤ 5 ∧
    (5 : GainCode).toNat ≤ 5 ∧ (0 : Fin 4) ≠ 3 := by decide

theorem witness_GainSurvivesUntilNextSetGain :
    (2 : GainCode).toNat ≤ 5 ∧
    (∀ w ∈ ([0x10003, 0xB1234, 0x90000, 0x5FFFF] : List Cmd), hasSetGainOpcode w = false) ∧
    isBuild (.buildSe 0) = true ∧
    exec (.buildSe 0) (atGain 2) = .next ((atGain 2).answer ⟨0xC583, .ok⟩) ∧
    ((atGain 2).answer ⟨0xC583, .ok⟩).answerAfter (atGain 2) = some ⟨0xC583, .ok⟩ :=
  ⟨by decide, by simp [hasSetGainOpcode], rfl, rfl, rfl⟩

theorem witness_StepKeepsGainLegalAndBusWhole :
    StateInv State.reset ∧
    step (State.reset.withInbox [.command 0x80005]) =
      .next ((State.reset.withGain 5).answer ⟨5, .ok⟩) ∧
    StateInv (State.reset.withInbox [.command 0x80005]) :=
  ⟨⟨by decide, .empty⟩, rfl, ⟨by decide, .empty⟩⟩

/-- An inbox with every kind of event a host model offers. -/
theorem witness_RunsOverOfferedEventsNeverStop :
    ∀ e ∈ (State.reset.withInbox [.command 0xFFFFF, .reset .powerApplied, .regWrite 0x03 0xFFFF,
      .regRead 0x00, .wait 0, .session (.startComparatorSingleEnded 4 0), .alertLatches,
      .chipPowerCycle]).inbox, offered e = true := by decide

theorem witness_RegWriteTransaction :
    [0x00, 0x01, 0x02, 0x03].map registerOf =
      [some .conversion, some .config, some .lowThreshold, some .highThreshold] ∧
    ChipRegister.conversion ≠ .config := by decide

theorem witness_AccessesNotOfferedAreRefused :
    4 ≤ (0x04 : Byte).toNat ∧ 4 ≤ (0xFF : Byte).toNat := by decide

theorem witness_ConversionWaitDecides :
    readField ads1x15Layout.mode 0x8183 = 1 ∧ readField ads1x15Layout.os 0x8183 = 1 ∧
    readField ads1x15Layout.mode 0xFFFF = 1 ∧ readField ads1x15Layout.os 0xFFFF = 1 := by decide

/-- The chip converting continuously. -/
def armed : State :=
  State.reset.withChip { Chip.atReset with phase := .continuous, config := 0x4084, configured := true }

theorem witness_ContinuousUntilReconfigured :
    readField ads1x15Layout.mode 0x0084 = 0 ∧
    (∃ t, handle (.regWrite 0x01 0x0084) State.reset = .next t) ∧
    (∀ e ∈ ([.command 0x80002, .reset .rst, .regWrite 0x02 0x8000, .regRead 0x00, .wait 9,
      .alertLatches, .session .getGain] : List HostEvent), mayReconfigure e = false) ∧
    armed.chip.phase = .continuous ∧
    (∃ t, runEvents [.command 0x80002, .reset .rst, .regWrite 0x02 0x8000, .regRead 0x00, .wait 9,
      .alertLatches, .session .getGain] armed = .next t) :=
  ⟨by decide, ⟨_, rfl⟩, by decide, rfl, ⟨_, rfl⟩⟩

/-- `ReadSingleEndedSequence`, `StartComparatorSequence`, `ReadingDisarmsComparator`,
`ReadingsKeepTheConversionWait`, `ArmedGainIsStale`, `SessionGainAccess`: channels 3 and 4, gains 5
and 6, and a list of readings that is not empty. -/
theorem witness_sessions :
    (0 : Word).toNat ≤ 3 ∧ (3 : Word).toNat ≤ 3 ∧ 3 < (4 : Word).toNat ∧ 3 < (0xFFFF : Word).toNat ∧
    (5 : GainCode).toNat ≤ 5 ∧ 5 < (6 : GainCode).toNat ∧
    SessionOp.readDifferential01 ∈
      [SessionOp.readSingleEnded 3, .readDifferential01, .readDifferential23] := by decide

theorem witness_NoTransactionAfterFault :
    runSession (.startComparatorSingleEnded 9 1000) State.reset =
      .next ((State.reset.answer ⟨0, .invalidChannel⟩).giveBack .nothing) ∧
    ⟨0, .invalidChannel⟩ ∈ (((State.reset.answer ⟨0, .invalidChannel⟩).giveBack
      .nothing).responses.drop State.reset.responses.length) ∧
    Status.invalidChannel ≠ .ok := ⟨rfl, by decide, by decide⟩

end Sys2Proof.Tests
end

section
/-! Support: what one command computes, as a function of the instruction (or the word) and of `GAIN`
alone (R17). `exec`, `command`, `issue` and `step` are described by it once, below. -/

namespace Sys2Proof.Machine

/-- The result a command computes from `GAIN`, or the fault it raises (R56 to R79). -/
def resultOf (i : Instr) (g : GainCode) : Except CodecFault Word :=
  match i with
  | .buildSe c => singleEndedWord Config.params g c
  | .buildD01 => .ok (buildConfig Config.params.layout g .pair01 .read)
  | .buildD23 => .ok (buildConfig Config.params.layout g .pair23 .read)
  | .buildCmp c => cmpArmWord Config.params g c
  | .decode raw => .ok (decodeSample Config.params.family raw)
  | .decodeU raw => .ok (decodeUnsigned Config.params.family raw)
  | .encThr t => .ok (encodeThreshold Config.params.family t)
  | .setGain n => if gainValid n then .ok (zext16 n) else .error .invalidGain
  | .getGain => .ok (zext16 g)

/-- `GAIN` after a command (R10, R78). -/
def gainAfter (i : Instr) (g : GainCode) : GainCode :=
  match i with
  | .setGain n => if gainValid n then n else g
  | .buildSe _ | .buildD01 | .buildD23 | .buildCmp _ | .decode _ | .decodeU _ | .encThr _
  | .getGain => g

/-- `GAIN` after a command, and its response. -/
def execOutput (i : Instr) (g : GainCode) : GainCode × Response :=
  (gainAfter i g, responseOf (resultOf i g))

/-- `GAIN` after a command event, and its response: an illegal word writes nothing (R89). -/
def commandOutput (w : Cmd) (g : GainCode) : GainCode × Response :=
  match decode w with
  | .ok i => execOutput i g
  | .error _ => (g, ⟨0, .illegalCommand⟩)

/-- All that a command does: it writes `GAIN` and answers. -/
theorem exec_eq (i : Instr) (s : State) :
    exec i s = .next ((s.withGain (execOutput i s.gain).1).answer (execOutput i s.gain).2) := by
  cases i with
  | buildSe c => exact finish_eq _ s
  | buildD01 => rfl
  | buildD23 => rfl
  | buildCmp c => exact finish_eq _ s
  | decode raw => rfl
  | decodeU raw => rfl
  | encThr t => rfl
  | setGain n =>
    by_cases h : gainValid n <;>
      simp [exec, execSetGain, execOutput, gainAfter, resultOf, responseOf, h]
  | getGain => rfl

theorem command_of_decode {w : Cmd} {i : Instr} (h : decode w = .ok i) (s : State) :
    command w s = exec i s := by
  simp [command, h]

theorem commandOutput_of_decode {w : Cmd} {i : Instr} (h : decode w = .ok i) (g : GainCode) :
    commandOutput w g = execOutput i g := by
  simp [commandOutput, h]

theorem commandOutput_of_reject {w : Cmd} {e : DecodeReject} (h : decode w = .error e)
    (g : GainCode) : commandOutput w g = (g, ⟨0, .illegalCommand⟩) := by
  simp [commandOutput, h]

/-- All that a command event does: it writes `GAIN` and answers. -/
theorem command_eq (w : Cmd) (s : State) :
    command w s =
      .next ((s.withGain (commandOutput w s.gain).1).answer (commandOutput w s.gain).2) := by
  cases h : decode w with
  | ok i => rw [command_of_decode h, commandOutput_of_decode h, exec_eq]
  | error e => simp [command, h, commandOutput_of_reject h, faultStatus]

/-- The host that issues a command goes on with that command's response, at once. -/
theorem issue_eq (i : Instr) (s : State) (k : Response → State → Out) :
    issue i s k = k (commandOutput (encode i) s.gain).2
      ((s.withGain (commandOutput (encode i) s.gain).1).answer
        (commandOutput (encode i) s.gain).2) := by
  simp [issue, command_eq]

theorem step_of_idle {s : State} (h : s.inbox = []) : step s = .next s := by
  simp [step, h]

/-- A step over a word placed for fetching is that word's command event. -/
theorem step_withFetchWord (s : State) (nbits w : Nat) :
    step (s.withFetchWord nbits w) = command (portWord nbits w) s := by
  have hhead : (s.withFetchWord nbits w).inbox = .command (portWord nbits w) :: s.inbox := rfl
  rw [step_of_pending hhead]
  rfl

theorem decode_of_decodeTableWord {nbits w : Nat} {i : Instr}
    (h : decodeTableWord nbits w = some i) : decode (portWord nbits w) = .ok i := by
  unfold decodeTableWord at h
  split at h
  · next j hj => rw [hj, Option.some.inj h]
  · cases h

/-- `GAIN` is written by a `SETGAIN` of a gain setting and by nothing else (R10). -/
theorem gainAfter_cases (i : Instr) (g : GainCode) :
    gainAfter i g = g ∨ ∃ n : GainCode, i = .setGain n ∧ n.toNat ≤ 5 ∧ gainAfter i g = n := by
  cases i with
  | setGain n =>
    by_cases h : n.toNat ≤ 5
    · exact .inr ⟨n, rfl, h, by simp [gainAfter, gainValid, h]⟩
    · exact .inl (by simp [gainAfter, gainValid, h])
  | _ => exact .inl rfl

theorem gainAfter_legal (i : Instr) {g : GainCode} (hg : g.toNat ≤ 5) :
    (gainAfter i g).toNat ≤ 5 := by
  obtain h | ⟨n, -, hn, h⟩ := gainAfter_cases i g
  · rwa [h]
  · rwa [h]

theorem commandOutput_gain_legal (w : Cmd) {g : GainCode} (hg : g.toNat ≤ 5) :
    (commandOutput w g).1.toNat ≤ 5 := by
  cases h : decode w with
  | ok i => rw [commandOutput_of_decode h]; exact gainAfter_legal i hg
  | error e => rwa [commandOutput_of_reject h]

end Sys2Proof.Machine
end

section
/-! Support: the invariant through every operation of the machine. `AllNext P o` says that `P` holds
of the next state of `o`, if `o` has one; each operation gets one rule. -/

namespace Sys2Proof.Machine

/-- Whatever next state the outcome has, it satisfies `P`; a stop has none. -/
def AllNext (P : State → Prop) (o : Out) : Prop := ∀ t, o = .next t → P t

@[simp] theorem allNext_next {P : State → Prop} {s : State} : AllNext P (.next s) ↔ P s := by
  simp [AllNext]

protected theorem AllNext.andThen {P Q : State → Prop} {o : Out} {k : State → Out}
    (ho : AllNext P o) (hk : ∀ s, P s → AllNext Q (k s)) : AllNext Q (andThen o k) := by
  intro t h
  obtain ⟨s, hs, ht⟩ := andThen_eq_next h
  exact hk s (ho s hs) t ht

/-- The invariant sees the gain and the bus log only. -/
theorem StateInv.of_eq {s t : State} (h : StateInv s) (hgain : t.gain = s.gain)
    (hbus : t.bus = s.bus) : StateInv t := by
  simpa [StateInv, GainLegal, hgain, hbus] using h

protected theorem StateInv.afterCommand {s : State} (h : StateInv s) (w : Cmd) (r : Response) :
    StateInv ((s.withGain (commandOutput w s.gain).1).answer r) :=
  ⟨commandOutput_gain_legal w h.1, h.2⟩

protected theorem StateInv.waitMs {s : State} (h : StateInv s) (ms : Nat) :
    StateInv (waitMs ms s) :=
  ⟨h.1, .wait ms h.2⟩

protected theorem StateInv.afterRegRead {s : State} (h : StateInv s) (v : Word) :
    StateInv (afterRegRead v s) :=
  ⟨h.1, .read v h.2⟩

protected theorem StateInv.giveBack {s : State} (h : StateInv s) (v : Returned) :
    StateInv (s.giveBack v) :=
  h.of_eq rfl rfl

protected theorem StateInv.command {s : State} (h : StateInv s) (w : Cmd) :
    AllNext StateInv (command w s) := by
  rw [command_eq, allNext_next]
  exact h.afterCommand w _

protected theorem StateInv.regWrite {s : State} (h : StateInv s) (ptr : Byte) (v : Word) :
    AllNext StateInv (regWrite ptr v s) := by
  intro t ht
  obtain ⟨r, hr, rfl⟩ := regWrite_eq_next ht
  rw [pointerOf_registerOf hr]
  exact ⟨h.1, .write r v h.2⟩

protected theorem StateInv.regRead {s : State} (h : StateInv s) (ptr : Byte)
    {k : Word → State → Out} (hk : ∀ v t, StateInv t → AllNext StateInv (k v t)) :
    AllNext StateInv (regRead ptr s k) := by
  intro t ht
  rw [regRead_eq_next ht, regRead_conversion] at ht
  exact hk _ _ (h.afterRegRead _) t ht

protected theorem StateInv.issue {s : State} (h : StateInv s) (i : Instr)
    {k : Response → State → Out} (hk : ∀ r t, StateInv t → AllNext StateInv (k r t)) :
    AllNext StateInv (issue i s k) := by
  rw [issue_eq]
  exact hk _ _ (h.afterCommand _ _)

protected theorem StateInv.configureAndRead {s : State} (h : StateInv s) (cfg : Word)
    {k : Word → State → Out} (hk : ∀ v t, StateInv t → AllNext StateInv (k v t)) :
    AllNext StateInv (configureAndRead cfg s k) :=
  (h.regWrite _ cfg).andThen fun _ ht => (ht.waitMs _).regRead _ hk

protected theorem StateInv.giveUnsigned {s : State} (h : StateInv s) (raw : Word) :
    AllNext StateInv (giveUnsigned raw s) :=
  h.issue _ fun _ _ ht => allNext_next.mpr (ht.giveBack _)

protected theorem StateInv.giveSigned {s : State} (h : StateInv s) (raw : Word) :
    AllNext StateInv (giveSigned raw s) :=
  h.issue _ fun _ _ ht => allNext_next.mpr (ht.giveBack _)

protected theorem StateInv.readSingleEnded {s : State} (h : StateInv s) (channel : Word) :
    AllNext StateInv (readSingleEnded channel s) := by
  refine h.issue _ fun cfg t ht => ?_
  split
  · exact allNext_next.mpr (ht.giveBack _)
  · exact ht.configureAndRead _ fun raw _ hu => hu.giveUnsigned raw

/-- The threshold is written first, the configuration second (R112). -/
protected theorem StateInv.startComparatorSingleEnded {s : State} (h : StateInv s)
    (channel threshold : Word) :
    AllNext StateInv (startComparatorSingleEnded channel threshold s) := by
  refine h.issue _ fun cfg t ht => ?_
  split
  · exact allNext_next.mpr (ht.giveBack _)
  · refine ht.issue _ fun thr u hu => ?_
    exact (hu.regWrite _ _).andThen fun v hv =>
      (hv.regWrite _ _).andThen fun x hx => allNext_next.mpr (hx.giveBack _)

protected theorem StateInv.runSession {s : State} (h : StateInv s) (op : SessionOp) :
    AllNext StateInv (runSession op s) := by
  cases op with
  | readSingleEnded channel => exact h.readSingleEnded channel
  | readDifferential01 =>
    exact h.issue .buildD01 fun cfg _ ht =>
      ht.configureAndRead cfg.res fun raw _ hu => hu.giveSigned raw
  | readDifferential23 =>
    exact h.issue .buildD23 fun cfg _ ht =>
      ht.configureAndRead cfg.res fun raw _ hu => hu.giveSigned raw
  | getLastConversionResults =>
    exact (h.waitMs Config.convLatencyMs).regRead (pointerOf .conversion) fun raw _ ht =>
      ht.giveSigned raw
  | startComparatorSingleEnded channel threshold =>
    exact h.startComparatorSingleEnded channel threshold
  | setGain g =>
    exact h.issue (.setGain g) fun _ _ ht => allNext_next.mpr (ht.giveBack .nothing)
  | getGain =>
    exact h.issue .getGain fun r _ ht => allNext_next.mpr (ht.giveBack (.gain r.res))

/-- Every event keeps the invariant. -/
protected theorem StateInv.handle {s : State} (h : StateInv s) (e : HostEvent) :
    AllNext StateInv (handle e s) := by
  cases e with
  | command w => exact h.command w
  | reset cause => exact allNext_next.mpr ⟨Nat.zero_le 5, h.2⟩
  | regWrite ptr v => exact h.regWrite ptr v
  | regRead ptr => exact h.regRead ptr fun _ _ ht => allNext_next.mpr (ht.giveBack _)
  | wait ms => exact allNext_next.mpr (h.waitMs ms)
  | session op => exact h.runSession op
  | alertLatches => exact allNext_next.mpr (h.of_eq rfl rfl)
  | chipPowerCycle => exact allNext_next.mpr (h.of_eq rfl rfl)

protected theorem StateInv.step {s : State} (h : StateInv s) : AllNext StateInv (step s) := by
  obtain ⟨-, hidle⟩ | ⟨e, rest, -, hstep⟩ := step_cases s
  · rw [hidle]
    exact allNext_next.mpr h
  · rw [hstep]
    have hpopped : StateInv (s.withInbox rest) := h.of_eq rfl rfl
    exact hpopped.handle e

end Sys2Proof.Machine
end

section
/-! Support: the decoder on a word put together from an opcode and an operand (R37, R38). -/

namespace Sys2Proof

@[simp] theorem cmdWord_toNat_div (op : BitVec 4) (arg : Word) :
    (cmdWord op arg).toNat / 65536 = op.toNat := by
  rw [← opField_toNat, opField_cmdWord]

@[simp] theorem cmdWord_toNat_mod (op : BitVec 4) (arg : Word) :
    (cmdWord op arg).toNat % 65536 = arg.toNat := by
  rw [← argField_toNat, argField_cmdWord]

theorem decode_cmdWord_buildSe (arg : Word) :
    decode (cmdWord 0x1 arg) = .ok (.buildSe arg.toNat) := by simp [decode]

theorem decode_cmdWord_buildD01 (arg : Word) :
    decode (cmdWord 0x2 arg) =
      if arg.toNat = 0 then .ok .buildD01 else .error (.strayOperand 0x2 arg) := by
  simp [decode, withoutOperand, BitVec.toNat_eq]

theorem decode_cmdWord_buildD23 (arg : Word) :
    decode (cmdWord 0x3 arg) =
      if arg.toNat = 0 then .ok .buildD23 else .error (.strayOperand 0x3 arg) := by
  simp [decode, withoutOperand, BitVec.toNat_eq]

theorem decode_cmdWord_buildCmp (arg : Word) :
    decode (cmdWord 0x4 arg) = .ok (.buildCmp arg.toNat) := by simp [decode]

theorem decode_cmdWord_decode (arg : Word) :
    decode (cmdWord 0x5 arg) = .ok (.decode arg) := by simp [decode]

theorem decode_cmdWord_decodeU (arg : Word) :
    decode (cmdWord 0x6 arg) = .ok (.decodeU arg) := by simp [decode]

theorem decode_cmdWord_encThr (arg : Word) :
    decode (cmdWord 0x7 arg) = .ok (.encThr arg) := by simp [decode]

theorem decode_cmdWord_setGain (arg : Word) :
    decode (cmdWord 0x8 arg) =
      if arg.toNat < 8 then .ok (.setGain (arg.extractLsb' 0 3))
      else .error (.strayOperand 0x8 arg) := by
  simp only [decode, setGainOperand, opField_cmdWord, argField_cmdWord, strayBits_eq_zero_iff]
  rfl

theorem decode_cmdWord_getGain (arg : Word) :
    decode (cmdWord 0x9 arg) =
      if arg.toNat = 0 then .ok .getGain else .error (.strayOperand 0x9 arg) := by
  simp [decode, withoutOperand, BitVec.toNat_eq]

theorem decode_cmdWord_reserved {op : BitVec 4} (h : op.toNat = 0 ∨ 10 ≤ op.toNat) (arg : Word) :
    decode (cmdWord op arg) = .error (.reservedOpcode op) := by
  simp only [decode, opField_cmdWord]
  split
  any_goals omega
  rfl

/-- The nine opcodes of R37 and the reserved ones. -/
theorem opcode_cases (op : BitVec 4) :
    op = 1 ∨ op = 2 ∨ op = 3 ∨ op = 4 ∨ op = 5 ∨ op = 6 ∨ op = 7 ∨ op = 8 ∨ op = 9 ∨
      (op.toNat = 0 ∨ 10 ≤ op.toNat) := by
  revert op; decide

end Sys2Proof
end

section
/-! Support: the pure functions of the codec as arithmetic on plain numbers (R69 law 1, R73,
R119). -/

namespace Sys2Proof.Machine

@[simp] theorem params_layout : Config.params.layout = ads1x15Layout := rfl

@[simp] theorem params_policy : Config.params.cmpChannelPolicy = .fault := rfl

/-- `profileConst` in the layout of R41, as a number (R62). -/
def profileNumber (p : Profile) : Nat :=
  match p with
  | .read => 0x8183
  | .cmpArm => 0x0084

/-- In the layout of R41 the fields of a configuration word are multiples of powers of two added on
(R119). -/
theorem buildConfig_eq_sum (g : GainCode) (sel : InputSel) (p : Profile) :
    buildConfig ads1x15Layout g sel p =
      BitVec.ofNat 16
        (profileNumber p + muxCode ads1x15Layout sel * 0x1000 + g.toNat * 0x200) := by
  cases sel with
  | ch c => cases p <;> revert g c <;> decide
  | pair01 => cases p <;> revert g <;> decide
  | pair23 => cases p <;> revert g <;> decide

/-- The two differential words as addition (R57, R58). -/
theorem buildConfig_pair01_read (g : GainCode) :
    buildConfig ads1x15Layout g .pair01 .read = BitVec.ofNat 16 (0x8183 + g.toNat * 0x200) :=
  buildConfig_eq_sum g .pair01 .read

theorem buildConfig_pair23_read (g : GainCode) :
    buildConfig ads1x15Layout g .pair23 .read = BitVec.ofNat 16 (0xB183 + g.toNat * 0x200) :=
  buildConfig_eq_sum g .pair23 .read

theorem muxCode_ch (c : Fin 4) : muxCode ads1x15Layout (.ch c) = 4 + c.val := by
  revert c; decide

/-- `BUILD.SE` as addition (R56, R119). -/
theorem singleEndedWord_eq (g : GainCode) (c : Nat) :
    singleEndedWord Config.params g c =
      if c ≤ 3 then .ok (BitVec.ofNat 16 (0x8183 + (4 + c) * 0x1000 + g.toNat * 0x200))
      else .error .invalidChannel := by
  unfold singleEndedWord
  by_cases hc : c ≤ 3
  · rw [channelOf_of_lt (Nat.lt_succ_of_le hc), if_pos hc]
    exact congrArg Except.ok (by rw [params_layout, buildConfig_eq_sum, muxCode_ch]; rfl)
  · rw [channelOf_of_le (Nat.lt_of_not_le hc), if_neg hc]

/-- `BUILD.CMP` as addition, under the policy `fault` (R59, R60, R119). -/
theorem cmpArmWord_eq (g : GainCode) (c : Nat) :
    cmpArmWord Config.params g c =
      if c ≤ 3 then .ok (BitVec.ofNat 16 (0x0084 + (4 + c) * 0x1000 + g.toNat * 0x200))
      else .error .invalidChannel := by
  unfold cmpArmWord
  by_cases hc : c ≤ 3
  · rw [channelOf_of_lt (Nat.lt_succ_of_le hc), if_pos hc]
    exact congrArg Except.ok (by rw [params_layout, buildConfig_eq_sum, muxCode_ch]; rfl)
  · rw [channelOf_of_le (Nat.lt_of_not_le hc), if_neg hc]
    rfl

theorem zext16_eq (g : GainCode) : zext16 g = BitVec.ofNat 16 g.toNat := by
  apply BitVec.eq_of_toNat_eq
  simp [zext16]

/-- `SETGAIN` on numbers (R78). -/
theorem execOutput_setGain (n g : GainCode) :
    execOutput (.setGain n) g =
      if 5 < n.toNat then (g, ⟨0, .invalidGain⟩) else (n, ⟨BitVec.ofNat 16 n.toNat, .ok⟩) := by
  by_cases hn : n.toNat ≤ 5 <;>
    simp [execOutput, gainAfter, resultOf, responseOf, gainValid, zext16_eq, faultStatus, hn,
      Nat.lt_of_not_le]

/-- The operand of `SETGAIN` is its low three bits (R38). -/
theorem gainOperand_eq (arg : Word) : arg.extractLsb' 0 3 = BitVec.ofNat 3 arg.toNat :=
  BitVec.eq_of_toNat_eq (by simp)

/-- The top bit of a word, by the word's size. -/
theorem getLsbD_15_eq (v : Word) : v.getLsbD 15 = decide (32768 ≤ v.toNat) := by
  have hmsb := BitVec.msb_eq_decide v
  simpa [BitVec.msb_eq_getLsbD_last] using hmsb

/-- `toInt16` by the size of the word instead of its top bit. -/
theorem toInt16_eq (v : Word) :
    toInt16 v = if v.toNat < 32768 then (v.toNat : Int) else v.toNat - 65536 := by
  simp only [toInt16, getLsbD_15_eq, decide_eq_true_eq]
  split <;> split <;> omega

theorem lsr16_toNat (v : Word) (n : Nat) : (lsr16 v n).toNat = v.toNat / 2 ^ n := by
  simp [lsr16, Nat.shiftRight_eq_div_pow]

theorem decodeUnsigned_eq (f : Family) (raw : Word) :
    decodeUnsigned f raw = BitVec.ofNat 16 (raw.toNat / 2 ^ shiftWidth f) := by
  rw [← lsr16_toNat, BitVec.ofNat_toNat, BitVec.setWidth_eq]
  rfl

theorem encodeThreshold_eq (f : Family) (t : Word) :
    encodeThreshold f t = BitVec.ofNat 16 (t.toNat * 2 ^ shiftWidth f % 65536) := by
  apply BitVec.eq_of_toNat_eq
  simp [encodeThreshold, lsl16, Nat.shiftLeft_eq]

/-- Setting the top four bits of a 12-bit number adds them on. -/
theorem or_signBits_toNat {v : Word} (h : v.toNat < 4096) :
    (v ||| 0xF000).toNat = v.toNat + 61440 := by
  have hadd : 15 <<< 12 + v.toNat = 15 <<< 12 ||| v.toNat := Nat.shiftLeft_add_eq_or_of_lt h 15
  calc (v ||| 0xF000).toNat = v.toNat ||| 15 <<< 12 := rfl
    _ = v.toNat + 61440 := by rw [Nat.or_comm, ← hadd, Nat.add_comm, Nat.shiftLeft_eq]

/-- The 12-bit unpacker on numbers: bit 11 of the shifted word is the sign bit of the raw one. -/
theorem decodeSample_family12_toNat (raw : Word) :
    (decodeSample .family12 raw).toNat =
      raw.toNat / 16 + if 32768 ≤ raw.toNat then 61440 else 0 := by
  have hraw := raw.isLt
  have hshift : (lsr16 raw 4).toNat = raw.toNat / 16 := lsr16_toNat raw 4
  have hsign : (lsr16 raw 4).getLsbD 11 = decide (32768 ≤ raw.toNat) := by
    rw [← getLsbD_15_eq]
    exact BitVec.getLsbD_ushiftRight raw 4 11
  simp only [decodeSample, shiftWidth, hsign, decide_eq_true_eq]
  by_cases hneg : 32768 ≤ raw.toNat
  · rw [if_pos ⟨by decide, hneg⟩, if_pos hneg, or_signBits_toNat (by omega), hshift]
  · rw [if_neg (fun h => hneg h.2), if_neg hneg, hshift, Nat.add_zero]

/-- The arithmetic shift on numbers: a floor division, modulo 65536. -/
theorem asr16_toNat (v : Word) (n : Nat) :
    (asr16 v n).toNat = (toInt16 v / 2 ^ n % 65536).toNat := by
  have hfdiv : (toInt16 v).fdiv (2 ^ n) = toInt16 v / 2 ^ n :=
    Int.fdiv_eq_ediv_of_nonneg _ (by positivity)
  simp [asr16, fromInt16, hfdiv]

/-- R69 law 1: the unpacker is the arithmetic shift. -/
theorem decodeSample_eq_asr16 (f : Family) (raw : Word) :
    decodeSample f raw = asr16 raw (shiftWidth f) := by
  have hraw := raw.isLt
  apply BitVec.eq_of_toNat_eq
  rw [asr16_toNat, toInt16_eq]
  cases f with
  | family16 =>
    have hsame : decodeSample .family16 raw = raw := by simp [decodeSample, lsr16, shiftWidth]
    rw [hsame]
    simp only [shiftWidth]
    split <;> omega
  | family12 =>
    rw [decodeSample_family12_toNat]
    simp only [shiftWidth]
    split <;> split <;> omega

end Sys2Proof.Machine
end

section
/-! Support: the transition function on plain numbers, opcode by opcode, is what the model's command
event computes (R18). -/

namespace Sys2Proof.Machine

variable (g : GainCode) (arg : Word)

theorem commandOutput_buildSe :
    commandOutput (cmdWord 0x1 arg) g = referenceCommand Config.params g (cmdWord 0x1 arg) := by
  rw [commandOutput_of_decode (decode_cmdWord_buildSe arg)]
  by_cases hc : arg.toNat ≤ 3 <;>
    simp [execOutput, gainAfter, resultOf, responseOf, singleEndedWord_eq, referenceCommand, hc,
      faultStatus]

theorem commandOutput_buildD01 :
    commandOutput (cmdWord 0x2 arg) g = referenceCommand Config.params g (cmdWord 0x2 arg) := by
  rw [commandOutput, decode_cmdWord_buildD01]
  by_cases harg : arg.toNat = 0 <;>
    simp [execOutput, gainAfter, resultOf, responseOf, buildConfig_pair01_read,
      referenceCommand, harg]

theorem commandOutput_buildD23 :
    commandOutput (cmdWord 0x3 arg) g = referenceCommand Config.params g (cmdWord 0x3 arg) := by
  rw [commandOutput, decode_cmdWord_buildD23]
  by_cases harg : arg.toNat = 0 <;>
    simp [execOutput, gainAfter, resultOf, responseOf, buildConfig_pair23_read,
      referenceCommand, harg]

theorem commandOutput_buildCmp :
    commandOutput (cmdWord 0x4 arg) g = referenceCommand Config.params g (cmdWord 0x4 arg) := by
  rw [commandOutput_of_decode (decode_cmdWord_buildCmp arg)]
  by_cases hc : arg.toNat ≤ 3 <;>
    simp [execOutput, gainAfter, resultOf, responseOf, cmpArmWord_eq, referenceCommand, hc,
      faultStatus]

theorem commandOutput_decode :
    commandOutput (cmdWord 0x5 arg) g = referenceCommand Config.params g (cmdWord 0x5 arg) := by
  rw [commandOutput_of_decode (decode_cmdWord_decode arg)]
  simp [execOutput, gainAfter, resultOf, responseOf, decodeSample_eq_asr16, asr16, toInt16_eq,
    referenceCommand]

theorem commandOutput_decodeU :
    commandOutput (cmdWord 0x6 arg) g = referenceCommand Config.params g (cmdWord 0x6 arg) := by
  rw [commandOutput_of_decode (decode_cmdWord_decodeU arg)]
  simp [execOutput, gainAfter, resultOf, responseOf, decodeUnsigned_eq, referenceCommand]

theorem commandOutput_encThr :
    commandOutput (cmdWord 0x7 arg) g = referenceCommand Config.params g (cmdWord 0x7 arg) := by
  rw [commandOutput_of_decode (decode_cmdWord_encThr arg)]
  simp [execOutput, gainAfter, resultOf, responseOf, encodeThreshold_eq, referenceCommand]

/-- The operand is checked for form first, for its value second (R39). -/
theorem commandOutput_setGain :
    commandOutput (cmdWord 0x8 arg) g = referenceCommand Config.params g (cmdWord 0x8 arg) := by
  rw [commandOutput, decode_cmdWord_setGain]
  by_cases hform : arg.toNat < 8
  · have hcode : arg.toNat % 8 = arg.toNat := Nat.mod_eq_of_lt hform
    simp [gainOperand_eq, execOutput_setGain, referenceCommand, hform, hcode, Nat.not_le.mpr hform]
  · simp [referenceCommand, hform]

theorem commandOutput_getGain :
    commandOutput (cmdWord 0x9 arg) g = referenceCommand Config.params g (cmdWord 0x9 arg) := by
  rw [commandOutput, decode_cmdWord_getGain]
  by_cases harg : arg.toNat = 0 <;>
    simp [execOutput, gainAfter, resultOf, responseOf, zext16_eq, referenceCommand, harg]

theorem commandOutput_reserved {op : BitVec 4} (h : op.toNat = 0 ∨ 10 ≤ op.toNat) :
    commandOutput (cmdWord op arg) g = referenceCommand Config.params g (cmdWord op arg) := by
  rw [commandOutput_of_reject (decode_cmdWord_reserved h arg)]
  simp only [referenceCommand, cmdWord_toNat_div]
  split
  any_goals omega
  rfl

/-- The two definitions of the codec's transition function agree, opcode by opcode. -/
theorem commandOutput_eq_reference (w : Cmd) :
    commandOutput w g = referenceCommand Config.params g w := by
  rw [← cmdWord_fields w]
  obtain h | h | h | h | h | h | h | h | h | h := opcode_cases (opField w)
  · rw [h]; exact commandOutput_buildSe g _
  · rw [h]; exact commandOutput_buildD01 g _
  · rw [h]; exact commandOutput_buildD23 g _
  · rw [h]; exact commandOutput_buildCmp g _
  · rw [h]; exact commandOutput_decode g _
  · rw [h]; exact commandOutput_decodeU g _
  · rw [h]; exact commandOutput_encThr g _
  · rw [h]; exact commandOutput_setGain g _
  · rw [h]; exact commandOutput_getGain g _
  · exact commandOutput_reserved g _ h

end Sys2Proof.Machine
end

section
/-! The obligations about the state (10_state.md). -/

namespace Sys2Proof.Proofs

open Sys2Proof.Machine

/-- Settles O40: one rule per operation carries the invariant through a command, a transaction, a
wait and every session operation. -/
theorem stepKeepsGainLegalAndBusWhole : Obligations.StepKeepsGainLegalAndBusWhole :=
  fun _ t hinv hstep => hinv.step t hstep

/-- Settles O4. -/
theorem everyCommandAnswersOnce : Obligations.EveryCommandAnswersOnce :=
  fun w s => ⟨_, _, command_eq w s, rfl⟩

/-- Settles O21: a command's next state is the old one with `GAIN` written and one response
added. -/
theorem commandFrame : Obligations.CommandFrame := by
  intro i s t h
  rw [exec_eq] at h
  cases h
  exact ⟨rfl, rfl, rfl, rfl, rfl, ⟨_, rfl⟩, gainAfter_cases i s.gain⟩

/-- Settles O23: `commandOutput` takes the word and `GAIN` and nothing else. -/
theorem responseDependsOnGainAndWord : Obligations.ResponseDependsOnGainAndWord := by
  intro w s u hgain
  refine ⟨(commandOutput w s.gain).2, (commandOutput w s.gain).1, command_eq w s, ?_⟩
  rw [hgain]
  exact command_eq w u

/-- Settles O37: both sides write one gain and add one response, and the two agree opcode by
opcode. -/
theorem commandIsTransitionFunction : Obligations.CommandIsTransitionFunction := by
  intro w s
  rw [← commandOutput_eq_reference]
  exact command_eq w s

/-- Settles O2, in both forms: the word at the head of the inbox, the word placed for fetching. -/
theorem stepRunsDecodedCommand : Obligations.StepRunsDecodedCommand := by
  refine ⟨fun s w i rest hinbox hdecode => ?_, fun s nbits w i htable => ?_⟩
  · calc step s
      _ = command w (s.withInbox rest) := step_of_pending hinbox
      _ = exec i (s.withInbox rest) := command_of_decode hdecode _
  · calc step (s.withFetchWord nbits w)
      _ = command (portWord nbits w) s := step_withFetchWord s nbits w
      _ = exec i s := command_of_decode (decode_of_decodeTableWord htable) s

/-- Settles O3. -/
theorem stepTakesTheNextEvent : Obligations.StepTakesTheNextEvent :=
  ⟨fun _ => step_of_idle, fun _ _ _ => step_of_pending⟩

/-- Settles O39. -/
theorem resetMeetsTheInvariant : Obligations.ResetMeetsTheInvariant :=
  ⟨Nat.zero_le 5, .empty⟩

end Sys2Proof.Proofs
end

section
/-! Support: the device registers and the two transactions, one rule per operation: bytes (R24),
pointers (R22), the chip's registers (R25), a write and a conversion read as host events. -/

namespace Sys2Proof.Machine

@[simp] theorem joinBytes_splitBytes (v : Word) :
    joinBytes (splitBytes v).1 (splitBytes v).2 = v :=
  BitVec.extractLsb'_append_extractLsb' (len := 8)

@[simp] theorem splitBytes_joinBytes (b0 b1 : Byte) : splitBytes (joinBytes b0 b1) = (b0, b1) :=
  Prod.ext BitVec.extractLsb'_append_eq_left BitVec.extractLsb'_append_eq_right

theorem splitBytes_fst_toNat (v : Word) : (splitBytes v).1.toNat = v.toNat / 256 := by
  have hv := v.isLt
  simp [splitBytes, Nat.shiftRight_eq_div_pow]; omega

theorem splitBytes_snd_toNat (v : Word) : (splitBytes v).2.toNat = v.toNat % 256 := by
  simp [splitBytes]

/-- Pointer bytes 0x04 to 0xFF select nothing (R22). -/
theorem registerOf_eq_none {ptr : Byte} (h : 4 ≤ ptr.toNat) : registerOf ptr = none := by
  cases hr : registerOf ptr with
  | none => rfl
  | some r =>
    have hsmall : (pointerOf r).toNat < 4 := by cases r <;> decide
    rw [pointerOf_registerOf hr] at h
    omega

theorem regWrite_of_none {ptr : Byte} (h : registerOf ptr = none) (v : Word) (s : State) :
    regWrite ptr v s = .refused (.noSuchRegister ptr) := by
  simp [regWrite, h]

theorem regRead_of_none {ptr : Byte} (h : registerOf ptr = none) (s : State)
    (k : Word → State → Out) : regRead ptr s k = .refused (.noSuchRegister ptr) := by
  simp [regRead, h]

/-- Of the registers that exist, only the conversion register is offered for reading (R27). -/
theorem regRead_of_ne_conversion {r : ChipRegister} (h : r ≠ .conversion) (s : State)
    (k : Word → State → Out) : regRead (pointerOf r) s k = .refused (.readNotOffered r) := by
  cases r with
  | conversion => exact absurd rfl h
  | _ => rfl

/-- A write changes the selected register and no other. -/
theorem chipRegister_chipWrite (L : CfgLayout) (r q : ChipRegister) (v : Word) (draw : Nat)
    (c : Chip) :
    chipRegister (chipWrite L r v draw c) q = if q = r then v else chipRegister c q := by
  cases r <;> cases q <;> rfl

@[simp] theorem chipRegister_chipWrite_self (L : CfgLayout) (r : ChipRegister) (v : Word)
    (draw : Nat) (c : Chip) : chipRegister (chipWrite L r v draw c) r = v := by
  rw [chipRegister_chipWrite, if_pos rfl]

theorem chipRegister_chipWrite_of_ne {q r : ChipRegister} (h : q ≠ r) (L : CfgLayout) (v : Word)
    (draw : Nat) (c : Chip) : chipRegister (chipWrite L r v draw c) q = chipRegister c q := by
  rw [chipRegister_chipWrite, if_neg h]

/-- Only a configuration word changes what the chip is doing (R29). -/
theorem chipWrite_phase_of_ne {r : ChipRegister} (h : r ≠ .config) (L : CfgLayout) (v : Word)
    (draw : Nat) (c : Chip) : (chipWrite L r v draw c).phase = c.phase := by
  cases r with
  | config => exact absurd rfl h
  | _ => rfl

/-- The state after a register has been written (R25): one draw is taken. -/
def afterRegWrite (r : ChipRegister) (v : Word) (s : State) : State :=
  ((s.logBus (regWriteOps (pointerOf r) v)).withChip
    (chipWrite Config.params.layout r v s.draws s.chip)).draw 1

@[simp] theorem afterRegWrite_gain (r : ChipRegister) (v : Word) (s : State) :
    (afterRegWrite r v s).gain = s.gain := rfl
@[simp] theorem afterRegWrite_inbox (r : ChipRegister) (v : Word) (s : State) :
    (afterRegWrite r v s).inbox = s.inbox := rfl
@[simp] theorem afterRegWrite_responses (r : ChipRegister) (v : Word) (s : State) :
    (afterRegWrite r v s).responses = s.responses := rfl
@[simp] theorem afterRegWrite_chip (r : ChipRegister) (v : Word) (s : State) :
    (afterRegWrite r v s).chip = chipWrite Config.params.layout r v s.draws s.chip := rfl
@[simp] theorem afterRegWrite_bus (r : ChipRegister) (v : Word) (s : State) :
    (afterRegWrite r v s).bus = s.bus ++ regWriteOps (pointerOf r) v := rfl
@[simp] theorem afterRegWrite_returned (r : ChipRegister) (v : Word) (s : State) :
    (afterRegWrite r v s).returned = s.returned := rfl
@[simp] theorem afterRegWrite_draws (r : ChipRegister) (v : Word) (s : State) :
    (afterRegWrite r v s).draws = s.draws + 1 := rfl

/-- All that a write to a register does: the chip receives the word sent. -/
@[simp] theorem regWrite_pointerOf (r : ChipRegister) (v : Word) (s : State) :
    regWrite (pointerOf r) v s = .next (afterRegWrite r v s) := by
  rw [regWrite_next (registerOf_pointerOf r), joinBytes_splitBytes, afterRegWrite]

/-- A read of the conversion register goes on with the chip's answer. -/
theorem regRead_pointerOf_conversion (s : State) (k : Word → State → Out) :
    regRead (pointerOf .conversion) s k =
      k (conversionAnswer Config.convLatencyMs s.chip s.draws)
        (afterRegRead (conversionAnswer Config.convLatencyMs s.chip s.draws) s) := by
  rw [regRead_conversion, joinBytes_splitBytes]

/-- A lone read gives the value back to the host (R26). -/
theorem handle_regRead (ptr : Byte) (s : State) :
    handle (.regRead ptr) s = regRead ptr s fun v t => .next (t.giveBack (.raw v)) := rfl

/-- Of the conversion register, that value is the chip's answer. -/
theorem handle_regRead_conversion (s : State) :
    handle (.regRead (pointerOf .conversion)) s =
      .next ((afterRegRead (conversionAnswer Config.convLatencyMs s.chip s.draws) s).giveBack
        (.raw (conversionAnswer Config.convLatencyMs s.chip s.draws))) := by
  rw [handle_regRead, regRead_pointerOf_conversion]

end Sys2Proof.Machine
end

section
/-! Support: waiting. `remainingMs` is what a single-shot conversion has yet to wait; waits count it
down to 0, and a conversion read is settled when nothing remains (R29, R107). -/

namespace Sys2Proof.Machine

/-- Milliseconds until the conversion under way, if one is, has had its latency. -/
def remainingMs (latency : Nat) (c : Chip) : Nat :=
  match c.phase with
  | .single elapsed => latency - elapsed
  | .idle => 0
  | .continuous => 0

theorem chipSettled_eq (latency : Nat) (c : Chip) :
    chipSettled latency c = (c.configured && decide (remainingMs latency c = 0)) := by
  cases h : c.phase <;> simp [chipSettled, remainingMs, h, Nat.sub_eq_zero_iff_le]

/-- The chip's answer: the conversion's result once the chip is configured and nothing remains. -/
theorem conversionAnswer_eq (latency : Nat) (c : Chip) (draw : Nat) :
    conversionAnswer latency c draw =
      if c.configured = true ∧ remainingMs latency c = 0 then Config.conversionResult draw
      else Config.freeWord draw := by
  simp [conversionAnswer, chipSettled_eq]

/-- Waiting takes off what remains, down to 0. -/
theorem remainingMs_chipWait (latency ms : Nat) (c : Chip) :
    remainingMs latency (chipWait latency ms c) = remainingMs latency c - ms := by
  cases h : c.phase with
  | idle => simp [remainingMs, chipWait, h]
  | continuous => simp [remainingMs, chipWait, h]
  | single elapsed =>
    by_cases hover : latency ≤ elapsed + ms <;> simp [remainingMs, chipWait, h, hover] <;> omega

theorem chipWait_of_continuous {c : Chip} (h : c.phase = .continuous) (latency ms : Nat) :
    chipWait latency ms c = c := by
  simp [chipWait, h]

@[simp] theorem waitAll_nil (s : State) : waitAll [] s = s := rfl

@[simp] theorem waitAll_cons (ms : Nat) (waits : List Nat) (s : State) :
    waitAll (ms :: waits) s = waitAll waits (waitMs ms s) := rfl

@[simp] theorem waitAll_returned (waits : List Nat) (s : State) :
    (waitAll waits s).returned = s.returned := by
  induction waits generalizing s with
  | nil => rfl
  | cons ms waits ih => simp [ih]

@[simp] theorem waitAll_draws (waits : List Nat) (s : State) :
    (waitAll waits s).draws = s.draws := by
  induction waits generalizing s with
  | nil => rfl
  | cons ms waits ih => simp [ih]

@[simp] theorem waitAll_configured (waits : List Nat) (s : State) :
    (waitAll waits s).chip.configured = s.chip.configured := by
  induction waits generalizing s with
  | nil => rfl
  | cons ms waits ih => simp [ih]

/-- Waits add up. -/
@[simp] theorem remainingMs_waitAll (waits : List Nat) (s : State) :
    remainingMs Config.convLatencyMs (waitAll waits s).chip =
      remainingMs Config.convLatencyMs s.chip - waits.sum := by
  induction waits generalizing s with
  | nil => rfl
  | cons ms waits ih => simp [ih, remainingMs_chipWait, Nat.sub_sub]

/-- A conversion read after waits: what is given back is decided by the sum of the waits. -/
theorem handle_regRead_waitAll (waits : List Nat) (s : State) :
    ∃ u, handle (.regRead (pointerOf .conversion)) (waitAll waits s) = .next u ∧
      u.returned = s.returned ++ [.raw
        (if s.chip.configured = true ∧
            remainingMs Config.convLatencyMs s.chip ≤ waits.sum
          then Config.conversionResult s.draws else Config.freeWord s.draws)] :=
  ⟨_, handle_regRead_conversion _, by simp [conversionAnswer_eq, Nat.sub_eq_zero_iff_le]⟩

/-- A single-shot word with the start flag starts a conversion that has all its latency to wait. -/
theorem remainingMs_chipConfigure_of_start {v : Word} (hmode : readField ads1x15Layout.mode v = 1)
    (hos : readField ads1x15Layout.os v = 1) (latency draw : Nat) (c : Chip) :
    remainingMs latency (chipConfigure ads1x15Layout v draw c) = latency := by
  have hphase : phaseAfterConfig ads1x15Layout v draw = .single 0 := by
    have hsingle : readField ads1x15Layout.mode v ≠ ads1x15Layout.modeContinuous :=
      hmode.trans_ne (by decide)
    have hstart : readField ads1x15Layout.os v = ads1x15Layout.osStart := hos
    rw [phaseAfterConfig, if_neg hsingle, if_pos hstart]
  simp [remainingMs, chipConfigure, hphase]

/-- A continuous-mode word sets the chip converting continuously (R29). -/
theorem chipConfigure_phase_of_continuous {v : Word}
    (hmode : readField ads1x15Layout.mode v = 0) (draw : Nat) (c : Chip) :
    (chipConfigure ads1x15Layout v draw c).phase = .continuous :=
  if_pos hmode

end Sys2Proof.Machine
end

section
/-! Support: a chip converting continuously under a configuration word, through every event that
does not reconfigure it (R29, R102). One rule per operation, as for the invariant. -/

namespace Sys2Proof.Machine

/-- A run of events keeps what each of them keeps. -/
theorem allNext_runEvents {P : State → Prop} {es : List HostEvent}
    (hkeep : ∀ e ∈ es, ∀ s, P s → AllNext P (handle e s)) {s : State} (hs : P s) :
    AllNext P (runEvents es s) := by
  induction es generalizing s with
  | nil => exact allNext_next.mpr hs
  | cons e rest ih =>
    obtain ⟨hfirst, hrest⟩ := List.forall_mem_cons.mp hkeep
    exact (hfirst s hs).andThen fun _ ht => ih hrest ht

/-- The chip is converting continuously, and its config register holds `cfg`. -/
def ConvertingUnder (cfg : Word) (s : State) : Prop :=
  s.chip.phase = .continuous ∧ s.chip.config = cfg

variable {cfg : Word} {s : State}

/-- Only the chip's phase and config register matter. -/
theorem ConvertingUnder.of_eq {t : State} (h : ConvertingUnder cfg s)
    (hphase : t.chip.phase = s.chip.phase) (hconfig : t.chip.config = s.chip.config) :
    ConvertingUnder cfg t :=
  ⟨hphase.trans h.1, hconfig.trans h.2⟩

protected theorem ConvertingUnder.command (h : ConvertingUnder cfg s) (w : Cmd) :
    AllNext (ConvertingUnder cfg) (command w s) := by
  rw [command_eq, allNext_next]
  exact h.of_eq rfl rfl

protected theorem ConvertingUnder.waitMs (h : ConvertingUnder cfg s) (ms : Nat) :
    ConvertingUnder cfg (waitMs ms s) := by
  have hchip : (Machine.waitMs ms s).chip = s.chip := chipWait_of_continuous h.1 _ ms
  exact h.of_eq (congrArg Chip.phase hchip) (congrArg Chip.config hchip)

/-- A write to a register other than the config register (pointer 1, R22). -/
protected theorem ConvertingUnder.regWrite (h : ConvertingUnder cfg s) {ptr : Byte}
    (hptr : ptr.toNat ≠ 1) (v : Word) : AllNext (ConvertingUnder cfg) (regWrite ptr v s) := by
  intro t ht
  obtain ⟨r, hr, rfl⟩ := regWrite_eq_next ht
  have hne : r ≠ .config := by
    rintro rfl
    exact hptr (congrArg BitVec.toNat (pointerOf_registerOf hr))
  exact h.of_eq (chipWrite_phase_of_ne hne _ _ _ _)
    (chipRegister_chipWrite_of_ne hne.symm _ _ _ _)

protected theorem ConvertingUnder.regRead (h : ConvertingUnder cfg s) (ptr : Byte)
    {k : Word → State → Out}
    (hk : ∀ v t, ConvertingUnder cfg t → AllNext (ConvertingUnder cfg) (k v t)) :
    AllNext (ConvertingUnder cfg) (regRead ptr s k) := by
  intro t ht
  rw [regRead_eq_next ht, regRead_conversion] at ht
  exact hk _ (afterRegRead _ s) (h.of_eq rfl rfl) t ht

protected theorem ConvertingUnder.issue (h : ConvertingUnder cfg s) (i : Instr)
    {k : Response → State → Out}
    (hk : ∀ r t, ConvertingUnder cfg t → AllNext (ConvertingUnder cfg) (k r t)) :
    AllNext (ConvertingUnder cfg) (issue i s k) := by
  rw [issue_eq]
  exact hk _ _ (h.of_eq rfl rfl)

/-- What an operation gives back is nothing to the chip. -/
protected theorem ConvertingUnder.giveBack (h : ConvertingUnder cfg s) (v : Returned) :
    AllNext (ConvertingUnder cfg) (.next (s.giveBack v)) :=
  allNext_next.mpr (h.of_eq rfl rfl)

/-- The session operations that write no configuration word. -/
protected theorem ConvertingUnder.runSession (h : ConvertingUnder cfg s) {op : SessionOp}
    (hop : mayReconfigure (.session op) = false) :
    AllNext (ConvertingUnder cfg) (runSession op s) := by
  cases op with
  | getLastConversionResults =>
    exact (h.waitMs Config.convLatencyMs).regRead (pointerOf .conversion) fun raw _ ht =>
      ht.issue (.decode raw) fun r _ hu => hu.giveBack (.signedSample (toInt16 r.res))
  | setGain g => exact h.issue (.setGain g) fun _ _ ht => ht.giveBack .nothing
  | getGain => exact h.issue .getGain fun r _ ht => ht.giveBack (.gain r.res)
  | _ => cases hop

protected theorem ConvertingUnder.handle (h : ConvertingUnder cfg s) {e : HostEvent}
    (he : mayReconfigure e = false) : AllNext (ConvertingUnder cfg) (handle e s) := by
  cases e with
  | command w => exact h.command w
  | reset cause => exact allNext_next.mpr (h.of_eq rfl rfl)
  | regWrite ptr v => exact h.regWrite (by simpa [mayReconfigure] using he) v
  | regRead ptr => exact h.regRead ptr fun v _ ht => ht.giveBack (.raw v)
  | wait ms => exact allNext_next.mpr (h.waitMs ms)
  | session op => exact h.runSession he
  | alertLatches => exact allNext_next.mpr (h.of_eq rfl rfl)
  | chipPowerCycle => cases he

end Sys2Proof.Machine
end

section
/-! The obligations about the device registers and the bus (20_memory.md). -/

namespace Sys2Proof.Proofs

open Sys2Proof.Machine

/-- Settles O22: all that a command does is to write `GAIN` and answer (`exec_eq`), which neither
reads nor writes the chip and the bus log. -/
theorem commandsTouchNoMemory : Obligations.CommandsTouchNoMemory := by
  refine fun i s => ⟨fun t ht => ?_, fun c ops => ?_⟩
  · rw [exec_eq] at ht
    cases ht
    exact ⟨rfl, rfl⟩
  · rw [exec_eq, exec_eq, andThen_next]
    rfl

/-- Settles O43: the pointer byte is the selected register's own, and the bytes sent are joined to
the value again. -/
theorem regWriteTransaction : Obligations.RegWriteTransaction := by
  intro ptr r v s hr
  obtain rfl := pointerOf_registerOf hr
  exact ⟨_, regWrite_pointerOf r v s, rfl, chipRegister_chipWrite_self _ r v _ _,
    fun _ hq => chipRegister_chipWrite_of_ne hq _ v _ _, rfl, rfl, rfl, rfl⟩

/-- Settles O46: the word starts a conversion with the whole latency remaining, and the waits count
it down. -/
theorem conversionWaitDecides : Obligations.ConversionWaitDecides := by
  intro v waits s hmode hos
  obtain ⟨u, hread, hback⟩ := handle_regRead_waitAll waits (afterRegWrite .config v s)
  have hconfigured : (afterRegWrite .config v s).chip.configured = true := rfl
  have hremaining : remainingMs Config.convLatencyMs (afterRegWrite .config v s).chip =
      Config.convLatencyMs :=
    remainingMs_chipConfigure_of_start hmode hos _ _ _
  refine ⟨_, u, regWrite_pointerOf .config v s, hread, ?_⟩
  rw [hback, hconfigured, hremaining]
  by_cases hearly : waits.sum < Config.convLatencyMs
  · simp [hearly, Nat.not_le.mpr hearly]
  · simp [hearly, Nat.not_lt.mp hearly]

/-- Settles O47: a continuous-mode word sets the phase, and every event that does not reconfigure
keeps phase and configuration. -/
theorem continuousUntilReconfigured : Obligations.ContinuousUntilReconfigured := by
  refine ⟨fun v s t hmode ht => ?_, fun es s t hes hphase => ?_⟩
  · cases (regWrite_pointerOf .config v s).symm.trans ht
    exact chipConfigure_phase_of_continuous hmode _ _
  · have hs : ConvertingUnder s.chip.config s := ⟨hphase, rfl⟩
    exact allNext_runEvents (fun e he _ hu => hu.handle (hes e he)) hs t

/-- Settles O48: after the power cycle the chip is not configured, and waits do not configure it. -/
theorem powerCycleForgetsConfiguration : Obligations.PowerCycleForgetsConfiguration := by
  intro waits s
  obtain ⟨u, hread, hback⟩ :=
    handle_regRead_waitAll waits ((s.withChip (chipAfterPowerCycle s.draws)).draw 4)
  refine ⟨_, u, rfl, rfl, rfl, rfl, rfl, rfl, hread, ?_⟩
  simpa [chipAfterPowerCycle] using hback

/-- Settles O42. -/
theorem byteOrderHighFirst : Obligations.ByteOrderHighFirst :=
  ⟨fun v => ⟨joinBytes_splitBytes v, splitBytes_fst_toNat v, splitBytes_snd_toNat v⟩,
    splitBytes_joinBytes⟩

/-- Settles O44: the two bytes are those of the chip's answer. -/
theorem regReadTransaction : Obligations.RegReadTransaction := by
  intro s
  have hread := handle_regRead_conversion s
  generalize conversionAnswer Config.convLatencyMs s.chip s.draws = answer at hread
  have hjoin : (splitBytes answer).1 ++ (splitBytes answer).2 = answer :=
    joinBytes_splitBytes answer
  refine ⟨_, (splitBytes answer).1, (splitBytes answer).2, hread, rfl, ?_, rfl, rfl, rfl, rfl,
    rfl, rfl, rfl, rfl⟩
  rw [hjoin]
  rfl

/-- Settles O45. -/
theorem accessesNotOfferedAreRefused : Obligations.AccessesNotOfferedAreRefused := by
  intro s
  have hread : ∀ r : ChipRegister, r ≠ .conversion →
      handle (.regRead (pointerOf r)) s = .refused (.readNotOffered r) := fun r hr => by
    rw [handle_regRead, regRead_of_ne_conversion hr]
  refine ⟨fun ptr v hptr => ?_, hread .config (by decide), hread .lowThreshold (by decide),
    hread .highThreshold (by decide)⟩
  have hnone := registerOf_eq_none hptr
  exact ⟨regWrite_of_none hnone v s, by rw [handle_regRead, regRead_of_none hnone]⟩

end Sys2Proof.Proofs
end

section
/-! Support: the decoder and the encoder, each the other's inverse (R36 to R39). -/

namespace Sys2Proof

open Sys2Proof.Machine

/-- The three-bit operand of `SETGAIN` is read back (R38). -/
theorem decode_cmdWord_setGain_zext16 (g : GainCode) :
    decode (cmdWord 0x8 (zext16 g)) = .ok (.setGain g) := by
  have hvalue : (zext16 g).toNat = g.toNat := BitVec.toNat_setWidth_of_le (by decide)
  have hform : (zext16 g).toNat < 8 := hvalue ▸ g.isLt
  rw [decode_cmdWord_setGain, if_pos hform, gainOperand_eq, hvalue, BitVec.ofNat_toNat,
    BitVec.setWidth_eq]

/-- Decoding is a left inverse of encoding on the instructions a word can hold (R36 to R38). -/
theorem decode_encode {i : Instr} (h : WellFormed i = true) : decode (encode i) = .ok i := by
  have hchannel : ∀ {c : Nat}, c < 65536 → (BitVec.ofNat 16 c).toNat = c := Nat.mod_eq_of_lt
  cases i with
  | buildSe c =>
    calc decode (cmdWord 0x1 (BitVec.ofNat 16 c))
      _ = .ok (.buildSe (BitVec.ofNat 16 c).toNat) := decode_cmdWord_buildSe _
      _ = .ok (.buildSe c) := by rw [hchannel (of_decide_eq_true h)]
  | buildD01 => exact decode_cmdWord_buildD01 0
  | buildD23 => exact decode_cmdWord_buildD23 0
  | buildCmp c =>
    calc decode (cmdWord 0x4 (BitVec.ofNat 16 c))
      _ = .ok (.buildCmp (BitVec.ofNat 16 c).toNat) := decode_cmdWord_buildCmp _
      _ = .ok (.buildCmp c) := by rw [hchannel (of_decide_eq_true h)]
  | decode raw => exact decode_cmdWord_decode raw
  | decodeU raw => exact decode_cmdWord_decodeU raw
  | encThr t => exact decode_cmdWord_encThr t
  | setGain g => exact decode_cmdWord_setGain_zext16 g
  | getGain => exact decode_cmdWord_getGain 0

/-- A command without operand is read with operand zero only (R38). -/
theorem operandless_of_ok {arg : Word} {i j : Instr} {e : DecodeReject}
    (h : (if arg.toNat = 0 then .ok j else .error e) = Except.ok i) : arg = 0 ∧ i = j := by
  split at h
  · next hzero => cases h; exact ⟨BitVec.eq_of_toNat_eq hzero, rfl⟩
  · cases h

/-- A `SETGAIN` operand of good form is its own low three bits (R38). -/
theorem setWidth_gainOperand {arg : Word} (h : arg.toNat < 8) :
    (arg.extractLsb' 0 3).setWidth 16 = arg := by
  apply BitVec.eq_of_toNat_eq
  simp; omega

/-- The decoder reads only what the encoder writes, and what it reads is well formed (R38). -/
theorem encode_of_decode {w : Cmd} {i : Instr} (h : decode w = .ok i) :
    encode i = w ∧ WellFormed i = true := by
  rw [← cmdWord_fields w] at h ⊢
  generalize opField w = op at h ⊢
  generalize argField w = arg at h ⊢
  have hchannel : decide (arg.toNat < 65536) = true := decide_eq_true arg.isLt
  have hoperand : BitVec.ofNat 16 arg.toNat = arg := by simp
  obtain rfl | rfl | rfl | rfl | rfl | rfl | rfl | rfl | rfl | hop := opcode_cases op
  · cases (decode_cmdWord_buildSe arg).symm.trans h
    exact ⟨by rw [encode, hoperand], hchannel⟩
  · obtain ⟨rfl, rfl⟩ := operandless_of_ok (decode_cmdWord_buildD01 arg ▸ h)
    exact ⟨rfl, rfl⟩
  · obtain ⟨rfl, rfl⟩ := operandless_of_ok (decode_cmdWord_buildD23 arg ▸ h)
    exact ⟨rfl, rfl⟩
  · cases (decode_cmdWord_buildCmp arg).symm.trans h
    exact ⟨by rw [encode, hoperand], hchannel⟩
  · cases (decode_cmdWord_decode arg).symm.trans h
    exact ⟨rfl, rfl⟩
  · cases (decode_cmdWord_decodeU arg).symm.trans h
    exact ⟨rfl, rfl⟩
  · cases (decode_cmdWord_encThr arg).symm.trans h
    exact ⟨rfl, rfl⟩
  · rw [decode_cmdWord_setGain] at h
    split at h
    · next hform => cases h; exact ⟨by rw [encode, setWidth_gainOperand hform], rfl⟩
    · cases h
  · obtain ⟨rfl, rfl⟩ := operandless_of_ok (decode_cmdWord_getGain arg ▸ h)
    exact ⟨rfl, rfl⟩
  · cases (decode_cmdWord_reserved hop arg).symm.trans h

end Sys2Proof
end

section
/-! Support: which words are legal, and how many (R50). -/

namespace Sys2Proof

/-- How many operands make a legal word with an opcode (R50); they are the operands below that
number. -/
def legalOperands (op : Nat) : Nat :=
  match op with
  | 1 | 4 | 5 | 6 | 7 => 65536
  | 2 | 3 | 9 => 1
  | 8 => 8
  | _ => 0

theorem legalOperands_le (op : Nat) : legalOperands op ≤ 65536 := by
  unfold legalOperands
  split <;> decide

theorem legalOperands_reserved {op : Nat} (h : op = 0 ∨ 10 ≤ op) : legalOperands op = 0 := by
  unfold legalOperands
  split <;> omega

theorem isOk_ite {α ε : Type} {a : α} {e : ε} {p : Prop} [Decidable p] :
    (if p then .ok a else .error e : Except ε α).isOk = decide p := by
  by_cases h : p
  · rw [if_pos h, decide_eq_true h]; rfl
  · rw [if_neg h, decide_eq_false h]; rfl

/-- A word is legal when its operand is below the number of legal ones of its opcode (R50). -/
theorem decode_isOk_cmdWord (op : BitVec 4) (arg : Word) :
    (decode (cmdWord op arg)).isOk = decide (arg.toNat < legalOperands op.toNat) := by
  have hany : true = decide (arg.toNat < 65536) := (decide_eq_true arg.isLt).symm
  have hzero : decide (arg.toNat = 0) = decide (arg.toNat < 1) :=
    decide_eq_decide.mpr Nat.lt_one_iff.symm
  obtain rfl | rfl | rfl | rfl | rfl | rfl | rfl | rfl | rfl | hop := opcode_cases op
  · rw [decode_cmdWord_buildSe]; exact hany
  · rw [decode_cmdWord_buildD01, isOk_ite]; exact hzero
  · rw [decode_cmdWord_buildD23, isOk_ite]; exact hzero
  · rw [decode_cmdWord_buildCmp]; exact hany
  · rw [decode_cmdWord_decode]; exact hany
  · rw [decode_cmdWord_decodeU]; exact hany
  · rw [decode_cmdWord_encThr]; exact hany
  · rw [decode_cmdWord_setGain, isOk_ite]; rfl
  · rw [decode_cmdWord_getGain, isOk_ite]; exact hzero
  · rw [decode_cmdWord_reserved hop, legalOperands_reserved hop]; rfl

theorem decode_isOk_iff (w : Cmd) :
    (decode w).isOk = true ↔ w.toNat % 65536 < legalOperands (w.toNat / 65536) := by
  rw [← cmdWord_fields w, decode_isOk_cmdWord, decide_eq_true_iff, cmdWord_toNat_mod,
    cmdWord_toNat_div]

theorem decodeTableWord_isSome_iff {n : Nat} (h : n < 2 ^ 20) :
    (decodeTableWord 20 n).isSome = true ↔ n % 65536 < legalOperands (n / 65536) := by
  have hword : (portWord 20 n).toNat = n := by simp [portWord]; omega
  have hsome : (decodeTableWord 20 n).isSome = (decode (portWord 20 n)).isOk := by
    unfold decodeTableWord
    split <;> next hdecode => rw [hdecode]; rfl
  rw [hsome, decode_isOk_iff, hword]

/-- The legal words as numbers; `legalWords_eq` says that they are those the decoder reads. -/
def legalWords : Finset Nat :=
  (Finset.range (2 ^ 20)).filter fun n => n % 65536 < legalOperands (n / 65536)

/-- The legal words with one opcode lie one beside the other. -/
theorem legalWords_of_opcode {op : Nat} (h : op < 16) :
    legalWords.filter (fun n => n / 65536 = op) =
      Finset.Ico (op * 65536) (op * 65536 + legalOperands op) := by
  have hle := legalOperands_le op
  ext n
  simp only [legalWords, Finset.mem_filter, Finset.mem_range, Finset.mem_Ico]
  constructor
  · rintro ⟨⟨-, hoperand⟩, rfl⟩
    omega
  · intro hn
    have hop : n / 65536 = op := by omega
    rw [hop]
    omega

theorem legalWords_eq :
    (Finset.range (2 ^ 20)).filter (fun n => (decodeTableWord 20 n).isSome = true) = legalWords :=
  Finset.filter_congr fun _ hn => decodeTableWord_isSome_iff (Finset.mem_range.mp hn)

theorem card_legalWords : legalWords.card = ∑ op ∈ Finset.range 16, legalOperands op := by
  have hopcode : ∀ n ∈ legalWords, n / 65536 ∈ Finset.range 16 := by
    intro n hn
    have hbound := Finset.mem_range.mp (Finset.mem_filter.mp hn).1
    exact Finset.mem_range.mpr (by omega)
  rw [Finset.card_eq_sum_card_fiberwise hopcode]
  refine Finset.sum_congr rfl fun op hop => ?_
  rw [legalWords_of_opcode (Finset.mem_range.mp hop), Nat.card_Ico, Nat.add_sub_cancel_left]

end Sys2Proof
end

section
/-! Support: the rows of the opcode table a word selects (R37, R39). -/

namespace Sys2Proof

/-- Every row compares the whole opcode, and asks nothing but zeros of the operand. -/
theorem opcodeTable_fields :
    ∀ r ∈ opcodeTable, opField r.mask = 0xF ∧ argField r.pattern = 0 := by decide

/-- The operand bits a row looks at leave room for the legal operands of its opcode. -/
theorem opcodeTable_operands : ∀ r ∈ opcodeTable,
    (argField r.mask).toNat + legalOperands (opField r.pattern).toNat = 65536 := by decide

theorem opcodeTable_opcodes_distinct : ∀ r ∈ opcodeTable, ∀ q ∈ opcodeTable,
    opField r.pattern = opField q.pattern → r = q := by decide

theorem opcodeTable_filter_eq : ∀ r ∈ opcodeTable, opcodeTable.filter (· = r) = [r] := by decide

/-- A word that selects a row has the row's opcode, and zeros where the row looks at the operand. -/
theorem fields_of_selectedBy {r : OpcodeRow} (hr : r ∈ opcodeTable) {w : Cmd}
    (h : r.selectedBy w = true) :
    opField w = opField r.pattern ∧ argField w &&& argField r.mask = 0 := by
  obtain ⟨hmask, hpattern⟩ := opcodeTable_fields r hr
  have hword : w &&& r.mask = r.pattern := beq_iff_eq.mp h
  constructor
  · calc opField w
      _ = opField w &&& opField r.mask := by rw [hmask]; exact BitVec.and_allOnes.symm
      _ = opField (w &&& r.mask) := BitVec.extractLsb'_and.symm
      _ = opField r.pattern := by rw [hword]
  · calc argField w &&& argField r.mask
      _ = argField (w &&& r.mask) := BitVec.extractLsb'_and.symm
      _ = 0 := by rw [hword, hpattern]

/-- Two words without a common bit fit side by side in one. -/
theorem toNat_add_lt_of_and_eq_zero {a m : Word} (h : a &&& m = 0) : a.toNat + m.toNat < 65536 :=
  BitVec.toNat_add_of_and_eq_zero h ▸ (a + m).isLt

/-- A word that selects a row decodes (R39). -/
theorem isOk_of_selectedBy {r : OpcodeRow} (hr : r ∈ opcodeTable) {w : Cmd}
    (h : r.selectedBy w = true) : (decode w).isOk = true := by
  have hlegal := opcodeTable_operands r hr
  obtain ⟨hop, harg⟩ := fields_of_selectedBy hr h
  have hfits := toNat_add_lt_of_and_eq_zero harg
  rw [← cmdWord_fields w, decode_isOk_cmdWord, decide_eq_true_iff, hop]
  omega

theorem rowOf_mem_opcodeTable (i : Instr) : rowOf i ∈ opcodeTable := by
  cases i <;> simp [rowOf, opcodeTable]

/-- The word of an instruction selects the instruction's row (R37). -/
theorem rowOf_selectedBy_encode (i : Instr) : (rowOf i).selectedBy (encode i) = true := by
  cases i with
  | buildSe c => exact Laws.RowMatch.buildSe c
  | buildD01 => exact Laws.RowMatch.buildD01
  | buildD23 => exact Laws.RowMatch.buildD23
  | buildCmp c => exact Laws.RowMatch.buildCmp c
  | decode raw => exact Laws.RowMatch.decode raw
  | decodeU raw => exact Laws.RowMatch.decodeU raw
  | encThr t => exact Laws.RowMatch.encThr t
  | setGain g => exact Laws.RowMatch.setGain g
  | getGain => exact Laws.RowMatch.getGain

/-- It selects no other row, since no two rows have one opcode. -/
theorem selectedRows_encode (i : Instr) :
    opcodeTable.filter (·.selectedBy (encode i)) = [rowOf i] := by
  have hmem := rowOf_mem_opcodeTable i
  have hself := rowOf_selectedBy_encode i
  rw [← opcodeTable_filter_eq _ hmem]
  refine List.filter_congr fun r hr => Bool.eq_iff_iff.mpr ?_
  rw [decide_eq_true_iff]
  refine ⟨fun h => ?_, fun h => h ▸ hself⟩
  exact opcodeTable_opcodes_distinct r hr _ hmem
    ((fields_of_selectedBy hr h).1.symm.trans (fields_of_selectedBy hmem hself).1)

theorem selectedRows_of_error {w : Cmd} {e : DecodeReject} (h : decode w = .error e) :
    opcodeTable.filter (·.selectedBy w) = [] := by
  refine List.filter_eq_nil_iff.mpr fun r hr hselected => ?_
  have hok := isOk_of_selectedBy hr hselected
  rw [h] at hok
  cases hok

end Sys2Proof
end

section
/-! Support: codes placed in the bit ranges of a configuration word, in any layout (R40, R42). -/

namespace Sys2Proof.Machine

/-- The bits of a word inside a range are the bits of the code read there. -/
theorem testBit_readField (r : BitRange) (w : Word) (j : Nat) :
    (readField r w).testBit j = (decide (j < r.width) && w.getLsbD (r.lo + j)) := by
  rw [readField, Nat.testBit_mod_two_pow, BitVec.testBit_toNat, BitVec.getLsbD_ushiftRight]

/-- A placed code has its bits in its range and zeros elsewhere. -/
theorem getLsbD_placeField (r : BitRange) (code i : Nat) :
    (placeField r code).getLsbD i =
      (decide (i < 16 ∧ r.lo ≤ i ∧ i < r.lo + r.width) && code.testBit (i - r.lo)) := by
  simp only [placeField, BitVec.getLsbD_shiftLeft, BitVec.getLsbD_ofNat, Nat.testBit_mod_two_pow]
  grind

theorem readField_or (r : BitRange) (v w : Word) :
    readField r (v ||| w) = readField r v ||| readField r w := by
  refine Nat.eq_of_testBit_eq fun j => ?_
  simp only [testBit_readField, Nat.testBit_or, BitVec.getLsbD_or, Bool.and_or_distrib_left]

@[simp] theorem readField_zero (r : BitRange) : readField r 0#16 = 0 := by simp [readField]

/-- A code that fits its range is read back from it (R42). -/
theorem readField_placeField {r : BitRange} {code : Nat} (hrange : r.lo + r.width ≤ 16)
    (hcode : code < 2 ^ r.width) : readField r (placeField r code) = code := by
  refine Nat.eq_of_testBit_eq fun j => ?_
  rw [testBit_readField, getLsbD_placeField, Nat.add_sub_cancel_left]
  by_cases hj : j < r.width
  · have hin : r.lo + j < 16 ∧ r.lo ≤ r.lo + j ∧ r.lo + j < r.lo + r.width := by omega
    simp [hj, hin]
  · have hout : code.testBit j = false :=
      Nat.testBit_lt_two_pow (hcode.trans_le (Nat.pow_le_pow_right two_pos (Nat.le_of_not_lt hj)))
    simp [hj, hout]

/-- A range that shares no bit with a field reads zeros from it. -/
theorem readField_placeField_of_disjoint {r q : BitRange} (h : disjointRanges r q) (code : Nat) :
    readField r (placeField q code) = 0 := by
  refine Nat.eq_of_testBit_eq fun j => ?_
  rw [testBit_readField, getLsbD_placeField, Nat.zero_testBit]
  by_cases hj : j < r.width
  · have hout : ¬ (r.lo + j < 16 ∧ q.lo ≤ r.lo + j ∧ r.lo + j < q.lo + q.width) := by
      unfold disjointRanges at h
      omega
    simp [hout]
  · simp [hj]

/-- A placed code has no bit outside the mask of its range (R43). -/
theorem placeField_and_not_fieldMask (r : BitRange) (code : Nat) :
    placeField r code &&& ~~~ fieldMask r = 0 := by
  refine BitVec.eq_of_getLsbD_eq fun i hi => ?_
  simp only [fieldMask, BitVec.getLsbD_and, BitVec.getLsbD_not, getLsbD_placeField,
    Nat.testBit_two_pow_sub_one]
  grind

/-- The OR of a list of codes, each placed in its range (R40: the word is "assembled by OR"). -/
def orFields (fields : List (BitRange × Nat)) : Word :=
  match fields with
  | [] => 0#16
  | f :: rest => placeField f.1 f.2 ||| orFields rest

theorem readField_orFields_of_disjoint {r : BitRange} {fields : List (BitRange × Nat)}
    (h : ∀ f ∈ fields, disjointRanges r f.1) : readField r (orFields fields) = 0 := by
  induction fields with
  | nil => exact readField_zero r
  | cons f rest ih =>
    obtain ⟨hf, hrest⟩ := List.forall_mem_cons.mp h
    rw [orFields, readField_or, readField_placeField_of_disjoint hf, ih hrest, Nat.zero_or]

/-- In disjoint ranges every code that fits is read back: the OR drops none and mixes none (R40). -/
theorem readField_orFields {fields : List (BitRange × Nat)}
    (hrange : ∀ r ∈ fields.map Prod.fst, r.lo + r.width ≤ 16)
    (hdisjoint : (fields.map Prod.fst).Pairwise disjointRanges)
    (hcode : ∀ f ∈ fields, f.2 < 2 ^ f.1.width) :
    (fields.map Prod.fst).map (fun r => readField r (orFields fields)) = fields.map Prod.snd := by
  induction fields with
  | nil => rfl
  | cons f rest ih =>
    obtain ⟨hrangeHead, hrangeRest⟩ := List.forall_mem_cons.mp hrange
    obtain ⟨hdisjointHead, hdisjointRest⟩ := List.pairwise_cons.mp hdisjoint
    obtain ⟨hcodeHead, hcodeRest⟩ := List.forall_mem_cons.mp hcode
    have hhead : readField f.1 (orFields (f :: rest)) = f.2 := by
      rw [orFields, readField_or, readField_placeField hrangeHead hcodeHead,
        readField_orFields_of_disjoint (List.forall_mem_map.mp hdisjointHead), Nat.or_zero]
    have hrest : ∀ r ∈ rest.map Prod.fst,
        readField r (orFields (f :: rest)) = readField r (orFields rest) := by
      intro r hr
      rw [orFields, readField_or,
        readField_placeField_of_disjoint (hdisjointHead r hr).symm, Nat.zero_or]
    calc (f.1 :: rest.map Prod.fst).map (fun r => readField r (orFields (f :: rest)))
      _ = f.2 :: (rest.map Prod.fst).map (fun r => readField r (orFields rest)) := by
        rw [List.map_cons, hhead, List.map_congr_left hrest]
      _ = f.2 :: rest.map Prod.snd := by rw [ih hrangeRest hdisjointRest hcodeRest]

/-- The nine fields of a configuration word with the codes `buildConfig` puts there (R55). -/
def configFields (L : CfgLayout) (g : GainCode) (sel : InputSel) (p : Profile) :
    List (BitRange × Nat) :=
  [(L.os, osCode L p), (L.mux, muxCode L sel), (L.pga, g.toNat), (L.mode, modeCode L p),
   (L.dr, L.dr1600), (L.cmode, L.cmodeTraditional), (L.cpol, L.cpolActiveLow),
   (L.clat, clatCode L p), (L.cque, cqueCode L p)]

theorem buildConfig_eq_orFields (L : CfgLayout) (g : GainCode) (sel : InputSel) (p : Profile) :
    buildConfig L g sel p = orFields (configFields L g sel p) := by
  simp only [buildConfig, profileConst, configFields, orFields]
  ac_rfl

/-! The codes a profile and a selection stand for are among those of the layout (R45, R46). -/

theorem osCode_mem (L : CfgLayout) (p : Profile) : osCode L p ∈ [L.osStart, L.osNoEffect] := by
  cases p <;> simp [osCode]

theorem muxCode_mem (L : CfgLayout) (sel : InputSel) : muxCode L sel ∈
    [L.muxCh0, L.muxCh1, L.muxCh2, L.muxCh3, L.muxPair01, L.muxPair23] := by
  cases sel with
  | ch c => fin_cases c <;> simp [muxCode]
  | pair01 => simp [muxCode]
  | pair23 => simp [muxCode]

theorem modeCode_mem (L : CfgLayout) (p : Profile) :
    modeCode L p ∈ [L.modeSingle, L.modeContinuous] := by
  cases p <;> simp [modeCode]

theorem clatCode_mem (L : CfgLayout) (p : Profile) :
    clatCode L p ∈ [L.clatNonLatching, L.clatLatching] := by
  cases p <;> simp [clatCode]

theorem cqueCode_mem (L : CfgLayout) (p : Profile) :
    cqueCode L p ∈ [L.cqueNone, L.cqueFirstMatch] := by
  cases p <;> simp [cqueCode]

/-- The six gain settings are the codes of the `PGA` field (R44). -/
theorem gainSetting_mem {g : GainCode} (hg : g.toNat ≤ 5) : g.toNat ∈ [0, 1, 2, 3, 4, 5] :=
  List.mem_range.mpr (Nat.lt_succ_of_le hg)

/-- In an admissible layout every code the packer places fits its field (R40). -/
theorem configFields_fit {L : CfgLayout} (hL : LayoutLegal L) {g : GainCode} (hg : g.toNat ≤ 5)
    (sel : InputSel) (p : Profile) : ∀ f ∈ configFields L g sel p, f.2 < 2 ^ f.1.width := by
  obtain ⟨-, -, hfit, -⟩ := hL
  have hcode : ∀ {r : BitRange} {codes : List Nat} {code : Nat},
      (r, codes) ∈ layoutCodes L → code ∈ codes → code < 2 ^ r.width :=
    fun hfield => hfit _ hfield _
  simp only [configFields, List.forall_mem_cons]
  exact ⟨hcode (by simp [layoutCodes]) (osCode_mem L p),
    hcode (by simp [layoutCodes]) (muxCode_mem L sel),
    hcode (by simp [layoutCodes]) (gainSetting_mem hg),
    hcode (by simp [layoutCodes]) (modeCode_mem L p),
    hcode (by simp [layoutCodes]) (List.mem_singleton_self L.dr1600),
    hcode (by simp [layoutCodes]) (List.mem_singleton_self L.cmodeTraditional),
    hcode (by simp [layoutCodes]) (List.mem_singleton_self L.cpolActiveLow),
    hcode (by simp [layoutCodes]) (clatCode_mem L p),
    hcode (by simp [layoutCodes]) (cqueCode_mem L p), List.forall_mem_nil _⟩

/-- In an admissible layout the nine fields read back what was put there (R40). -/
theorem readField_buildConfig {L : CfgLayout} (hL : LayoutLegal L) {g : GainCode}
    (hg : g.toNat ≤ 5) (sel : InputSel) (p : Profile) :
    (layoutRanges L).map (fun r => readField r (buildConfig L g sel p)) =
      (configFields L g sel p).map Prod.snd := by
  have hfit := configFields_fit hL hg sel p
  obtain ⟨hrange, hdisjoint, -, -⟩ := hL
  rw [buildConfig_eq_orFields]
  exact readField_orFields hrange hdisjoint hfit

/-- The multiplexer field reads back the code of the selection. -/
theorem readField_mux_buildConfig {L : CfgLayout} (hL : LayoutLegal L) {g : GainCode}
    (hg : g.toNat ≤ 5) (sel : InputSel) (p : Profile) :
    readField L.mux (buildConfig L g sel p) = muxCode L sel :=
  (List.cons.inj (List.cons.inj (readField_buildConfig hL hg sel p)).2).1

/-- Outside the multiplexer range a selection leaves what the profile and the gain put there
(R61). -/
theorem buildConfig_and_not_muxMask (L : CfgLayout) (g : GainCode) (sel : InputSel) (p : Profile) :
    buildConfig L g sel p &&& ~~~ fieldMask L.mux =
      (profileConst L p ||| placeField L.pga g.toNat) &&& ~~~ fieldMask L.mux := by
  have hsplit : buildConfig L g sel p =
      (profileConst L p ||| placeField L.pga g.toNat) ||| placeField L.mux (muxCode L sel) := by
    rw [buildConfig]
    ac_rfl
  rw [hsplit, BitVec.and_or_distrib_right, placeField_and_not_fieldMask]
  exact BitVec.or_zero

/-- The four channels have four codes (R40). -/
theorem muxCode_ch_injective {L : CfgLayout} (hL : LayoutLegal L) {c d : Fin 4}
    (h : muxCode L (.ch c) = muxCode L (.ch d)) : c = d := by
  obtain ⟨-, -, -, hdistinct⟩ := hL
  have hget : ∀ e : Fin 4,
      muxCode L (.ch e) = [L.muxCh0, L.muxCh1, L.muxCh2, L.muxCh3].get e := by
    intro e
    fin_cases e <;> rfl
  rw [hget, hget] at h
  exact (List.Nodup.get_inj_iff hdistinct).mp h

end Sys2Proof.Machine
end

section
/-! Support: the layout of R41, where the nine codes stand one beside the other. -/

namespace Sys2Proof.Machine

theorem ads1x15Layout_legal : LayoutLegal ads1x15Layout := by decide

/-- Reading a field on numbers. -/
theorem readField_eq (r : BitRange) (w : Word) :
    readField r w = w.toNat / 2 ^ r.lo % 2 ^ r.width := by
  simp [readField, Nat.shiftRight_eq_div_pow]

/-- The nine ranges cover the word (R43). -/
theorem ads1x15Layout_covers : ∀ i < 16, ∃ r ∈ layoutRanges ads1x15Layout,
    r.lo ≤ i ∧ i < r.lo + r.width := by decide

/-- Two words with the same nine fields are the same: every bit is a bit of a field. -/
theorem eq_of_readField_eq {v w : Word}
    (h : (layoutRanges ads1x15Layout).map (fun r => readField r v) =
      (layoutRanges ads1x15Layout).map (fun r => readField r w)) : v = w := by
  refine BitVec.eq_of_getLsbD_eq fun i hi => ?_
  obtain ⟨r, hr, hlo, hhi⟩ := ads1x15Layout_covers i hi
  have hbit : ∀ u : Word, (readField r u).testBit (i - r.lo) = u.getLsbD i := by
    intro u
    have hwidth : i - r.lo < r.width := by omega
    rw [testBit_readField, decide_eq_true hwidth, Bool.true_and, Nat.add_sub_cancel' hlo]
  rw [← hbit v, List.map_inj_left.mp h r hr, hbit w]

theorem toNat_append_eq_add {m n : Nat} (x : BitVec m) (y : BitVec n) :
    (x ++ y).toNat = x.toNat * 2 ^ n + y.toNat := by
  rw [BitVec.toNat_append, ← Nat.shiftLeft_add_eq_or_of_lt y.isLt, Nat.shiftLeft_eq]

section

variable (os : BitVec 1) (mux pga : BitVec 3) (mode : BitVec 1) (dr : BitVec 3)
  (cmode cpol clat : BitVec 1) (cque : BitVec 2)

/-- The configuration word as a number (R119). -/
theorem cfgPack_toNat :
    (cfgPack os mux pga mode dr cmode cpol clat cque).toNat =
      os.toNat * 0x8000 + mux.toNat * 0x1000 + pga.toNat * 0x200 + mode.toNat * 0x100 +
        dr.toNat * 0x20 + cmode.toNat * 0x10 + cpol.toNat * 8 + clat.toNat * 4 + cque.toNat := by
  simp only [cfgPack, toNat_append_eq_add]
  omega

/-- Each field of the concatenation is read back (R42). -/
theorem readField_cfgPack :
    (layoutRanges ads1x15Layout).map
        (fun r => readField r (cfgPack os mux pga mode dr cmode cpol clat cque)) =
      [os.toNat, mux.toNat, pga.toNat, mode.toNat, dr.toNat, cmode.toNat, cpol.toNat, clat.toNat,
        cque.toNat] := by
  have hos := os.isLt
  have hmux := mux.isLt
  have hpga := pga.isLt
  have hmode := mode.isLt
  have hdr := dr.isLt
  have hcmode := cmode.isLt
  have hcpol := cpol.isLt
  have hclat := clat.isLt
  have hcque := cque.isLt
  simp only [layoutRanges, ads1x15Layout, readField_eq, cfgPack_toNat, List.map_cons, List.map_nil,
    List.cons.injEq, and_true]
  omega

/-- The nine fields of `cfgPack`, each with its range in the layout of R41. -/
def packFields : List (BitRange × Nat) :=
  [(⟨15, 1⟩, os.toNat), (⟨12, 3⟩, mux.toNat), (⟨9, 3⟩, pga.toNat), (⟨8, 1⟩, mode.toNat),
   (⟨5, 3⟩, dr.toNat), (⟨4, 1⟩, cmode.toNat), (⟨3, 1⟩, cpol.toNat), (⟨2, 1⟩, clat.toNat),
   (⟨0, 2⟩, cque.toNat)]

/-- Side by side is the same as ORed together: both words have the same nine fields (R42). -/
theorem cfgPack_eq_orFields :
    cfgPack os mux pga mode dr cmode cpol clat cque =
      orFields (packFields os mux pga mode dr cmode cpol clat cque) := by
  obtain ⟨hrange, hdisjoint, -, -⟩ := ads1x15Layout_legal
  have hcode : ∀ f ∈ packFields os mux pga mode dr cmode cpol clat cque, f.2 < 2 ^ f.1.width := by
    simp only [packFields, List.forall_mem_cons]
    exact ⟨os.isLt, mux.isLt, pga.isLt, mode.isLt, dr.isLt, cmode.isLt, cpol.isLt, clat.isLt,
      cque.isLt, List.forall_mem_nil _⟩
  exact eq_of_readField_eq
    ((readField_cfgPack os mux pga mode dr cmode cpol clat cque).trans
      (readField_orFields (fields := packFields ..) hrange hdisjoint hcode).symm)

/-- A placed code is the code shifted into place (R42). -/
theorem placeField_toNat {n : Nat} (x : BitVec n) (lo : Nat) :
    placeField ⟨lo, n⟩ x.toNat = lsl16 (x.setWidth 16) lo := by
  rw [placeField, Nat.mod_eq_of_lt x.isLt, BitVec.ofNat_toNat]
  rfl

/-- The OR of the shifted codes, as R42 prints it. -/
theorem cfgPack_eq_or :
    cfgPack os mux pga mode dr cmode cpol clat cque =
      lsl16 (os.setWidth 16) 15 ||| lsl16 (mux.setWidth 16) 12 ||| lsl16 (pga.setWidth 16) 9 |||
      lsl16 (mode.setWidth 16) 8 ||| lsl16 (dr.setWidth 16) 5 ||| lsl16 (cmode.setWidth 16) 4 |||
      lsl16 (cpol.setWidth 16) 3 ||| lsl16 (clat.setWidth 16) 2 ||| cque.setWidth 16 := by
  have hcque : lsl16 (cque.setWidth 16) 0 = cque.setWidth 16 := BitVec.shiftLeft_zero _
  rw [cfgPack_eq_orFields]
  simp only [packFields, orFields, placeField_toNat, hcque, BitVec.or_zero,
    BitVec.or_assoc]

end

/-- The multiplexer codes have three bits (R41). -/
theorem muxCode_lt (sel : InputSel) : muxCode ads1x15Layout sel < 8 := by
  cases sel with
  | ch c => rw [muxCode_ch]; omega
  | pair01 => decide
  | pair23 => decide

/-- The words `buildConfig` builds as concatenations (R42, R55). -/
theorem buildConfig_eq_cfgPack (g : GainCode) (sel : InputSel) (p : Profile) :
    buildConfig ads1x15Layout g sel p =
      cfgPack (BitVec.ofNat 1 (osCode ads1x15Layout p))
        (BitVec.ofNat 3 (muxCode ads1x15Layout sel)) g
        (BitVec.ofNat 1 (modeCode ads1x15Layout p)) 0b100 0 0
        (BitVec.ofNat 1 (clatCode ads1x15Layout p)) (BitVec.ofNat 2 (cqueCode ads1x15Layout p)) := by
  have hmux := muxCode_lt sel
  have hg := g.isLt
  apply BitVec.eq_of_toNat_eq
  rw [buildConfig_eq_sum, cfgPack_toNat]
  generalize muxCode ads1x15Layout sel = mux at hmux ⊢
  cases p with
  | read => simp [profileNumber, osCode, modeCode, clatCode, cqueCode, ads1x15Layout]; omega
  | cmpArm => simp [profileNumber, osCode, modeCode, clatCode, cqueCode, ads1x15Layout]; omega

end Sys2Proof.Machine
end

section
/-! The obligations about the encodings (30_encoding.md). -/

namespace Sys2Proof.Proofs

open Sys2Proof.Machine

/-- Settles O8: case by case, the decoder reads back the operand the encoder wrote. -/
theorem decodeOfEncode : Obligations.DecodeOfEncode :=
  fun _ h => decode_encode h

/-- Settles O9. -/
theorem encodeOfDecode : Obligations.EncodeOfDecode :=
  fun _ _ h => encode_of_decode h

/-- Settles O5: a decoded word is the encoder's, which selects its own row and, the opcodes being
distinct, no other; a word that selects a row decodes. -/
theorem decoderFollowsOpcodeTable : Obligations.DecoderFollowsOpcodeTable := by
  refine ⟨fun w s => ?_, fun arg => ⟨decode_cmdWord_buildSe arg, decode_cmdWord_buildCmp arg⟩,
    decode_cmdWord_setGain_zext16⟩
  cases h : decode w with
  | ok i =>
    refine .inl ⟨i, rfl, ?_, command_of_decode h s⟩
    rw [← (encode_of_decode h).1]
    exact selectedRows_encode i
  | error e =>
    refine .inr ⟨⟨e, rfl⟩, selectedRows_of_error h, ?_⟩
    rw [command_eq, commandOutput_of_reject h, State.withGain_self]

/-- Settles O7: the legal words of each opcode are an interval, and R50's count is the sum of their
lengths. -/
theorem legalWordCount : Obligations.LegalWordCount := by
  calc _ = legalWords.card := congrArg Finset.card legalWords_eq
    _ = ∑ op ∈ Finset.range 16, legalOperands op := card_legalWords
    _ = 327691 := by decide

/-- Settles O35: in disjoint ranges the OR of the nine placed codes reads back as those codes; the
words of two channels differ in the multiplexer field, which reads back two different codes. -/
theorem everyLegalLayoutPacks : Obligations.EveryLegalLayoutPacks := by
  intro L hL g hg p
  refine ⟨fun sel => readField_buildConfig hL hg sel p, fun c d => ⟨?_, fun hne heq => hne ?_⟩⟩
  · rw [buildConfig_and_not_muxMask, buildConfig_and_not_muxMask]
  · apply muxCode_ch_injective hL
    rw [← readField_mux_buildConfig hL hg (.ch c) p, heq, readField_mux_buildConfig hL hg]

/-- Settles O33: a word is its nine fields, and each of the three forms has the same ones. -/
theorem packedFieldsSideBySide : Obligations.PackedFieldsSideBySide :=
  ⟨fun os mux pga mode dr cmode cpol clat cque =>
    ⟨cfgPack_eq_or os mux pga mode dr cmode cpol clat cque,
      readField_cfgPack os mux pga mode dr cmode cpol clat cque⟩,
    fun g sel => ⟨buildConfig_eq_cfgPack g sel .read, buildConfig_eq_cfgPack g sel .cmpArm⟩⟩

/-- Settles O10. -/
theorem printedWordsDecode : Obligations.PrintedWordsDecode := by
  unfold Obligations.PrintedWordsDecode
  decide

/-- Settles O11. -/
theorem assemblerEmitsPrintedWords : Obligations.AssemblerEmitsPrintedWords := by
  unfold Obligations.AssemblerEmitsPrintedWords
  decide

/-- Settles O34. -/
theorem layoutTakenIsLegal : Obligations.LayoutTakenIsLegal :=
  ⟨ads1x15Layout_legal, by decide⟩

/-- Settles O36. -/
theorem gainCodeTable : Obligations.GainCodeTable := by
  unfold Obligations.GainCodeTable
  decide

end Sys2Proof.Proofs
end

section
/-! Support: the configuration word as R55 writes it, an OR of three parts, and what is read back
from it under a mask or field by field. -/

namespace Sys2Proof.Machine

theorem profileConst_eq (p : Profile) :
    profileConst ads1x15Layout p = BitVec.ofNat 16 (profileNumber p) := by
  cases p <;> decide

/-- `buildConfig` as R55 prints it. -/
theorem buildConfig_eq_or (g : GainCode) (sel : InputSel) (p : Profile) :
    buildConfig ads1x15Layout g sel p =
      BitVec.ofNat 16 (profileNumber p) |||
        lsl16 (BitVec.ofNat 16 (muxCode ads1x15Layout sel)) 12 ||| lsl16 (zext16 g) 9 := by
  have hmux : placeField ads1x15Layout.mux (muxCode ads1x15Layout sel) =
      lsl16 (BitVec.ofNat 16 (muxCode ads1x15Layout sel)) 12 :=
    congrArg (fun code => lsl16 (BitVec.ofNat 16 code) 12) (Nat.mod_eq_of_lt (muxCode_lt sel))
  have hpga : placeField ads1x15Layout.pga g.toNat = lsl16 (zext16 g) 9 := placeField_toNat g 9
  rw [buildConfig, profileConst_eq, hmux, hpga]

/-- The code of a channel has bit 2 set and the channel below it (R45). -/
theorem ofNat_muxCode_ch (c : Fin 4) :
    BitVec.ofNat 16 (muxCode ads1x15Layout (.ch c)) = 0x0004 ||| BitVec.ofNat 16 c.val := by
  revert c; decide

/-- The word of a channel as R56 and R59 print it. -/
theorem buildConfig_ch_eq_or (g : GainCode) (c : Fin 4) (p : Profile) :
    buildConfig ads1x15Layout g (.ch c) p =
      BitVec.ofNat 16 (profileNumber p) ||| lsl16 (0x0004 ||| BitVec.ofNat 16 c.val) 12 |||
        lsl16 (zext16 g) 9 := by
  rw [buildConfig_eq_or, ofNat_muxCode_ch]

theorem muxCode_ne_reserved (sel : InputSel) :
    muxCode ads1x15Layout sel ≠ 0b001 ∧ muxCode ads1x15Layout sel ≠ 0b010 := by
  cases sel with
  | ch c => rw [muxCode_ch]; omega
  | pair01 => decide
  | pair23 => decide

theorem muxCode_injective {sel tel : InputSel}
    (h : muxCode ads1x15Layout sel = muxCode ads1x15Layout tel) : sel = tel := by
  cases sel with
  | ch c =>
    cases tel with
    | ch d => rw [muxCode_ch_injective ads1x15Layout_legal h]
    | pair01 => revert c; decide
    | pair23 => revert c; decide
  | pair01 =>
    cases tel with
    | ch d => revert d; decide
    | pair01 => rfl
    | pair23 => exact absurd h (by decide)
  | pair23 =>
    cases tel with
    | ch d => revert d; decide
    | pair01 => exact absurd h (by decide)
    | pair23 => rfl

theorem modeCode_injective {p q : Profile}
    (h : modeCode ads1x15Layout p = modeCode ads1x15Layout q) : p = q := by
  revert h; cases p <;> cases q <;> decide

/-- The nine fields read back, for every gain code of three bits, legal or not. -/
theorem readField_buildConfig_ads1x15 (g : GainCode) (sel : InputSel) (p : Profile) :
    (layoutRanges ads1x15Layout).map (fun r => readField r (buildConfig ads1x15Layout g sel p)) =
      (configFields ads1x15Layout g sel p).map Prod.snd := by
  have hmux : (BitVec.ofNat 3 (muxCode ads1x15Layout sel)).toNat = muxCode ads1x15Layout sel :=
    Nat.mod_eq_of_lt (muxCode_lt sel)
  rw [buildConfig_eq_cfgPack, readField_cfgPack, hmux]
  cases p <;> rfl

/-- The four fields the laws of R61 speak of. -/
theorem readField_buildConfig_mux_pga_mode_dr (g : GainCode) (sel : InputSel) (p : Profile) :
    readField ads1x15Layout.mux (buildConfig ads1x15Layout g sel p) = muxCode ads1x15Layout sel ∧
    readField ads1x15Layout.pga (buildConfig ads1x15Layout g sel p) = g.toNat ∧
    readField ads1x15Layout.mode (buildConfig ads1x15Layout g sel p) =
      modeCode ads1x15Layout p ∧
    readField ads1x15Layout.dr (buildConfig ads1x15Layout g sel p) = 0b100 := by
  have hfields := readField_buildConfig_ads1x15 g sel p
  simp only [layoutRanges, configFields, List.map_cons, List.cons.injEq] at hfields
  obtain ⟨-, hmux, hpga, hmode, hdr, -⟩ := hfields
  exact ⟨hmux, hpga, hmode, hdr⟩

/-- Gain, selection and profile can be read back from the word (R61 law 4). -/
theorem buildConfig_injective {g h : GainCode} {sel tel : InputSel} {p q : Profile}
    (heq : buildConfig ads1x15Layout g sel p = buildConfig ads1x15Layout h tel q) :
    g = h ∧ sel = tel ∧ p = q := by
  obtain ⟨hmux, hpga, hmode, -⟩ := readField_buildConfig_mux_pga_mode_dr g sel p
  obtain ⟨hmux', hpga', hmode', -⟩ := readField_buildConfig_mux_pga_mode_dr h tel q
  rw [heq] at hmux hpga hmode
  exact ⟨BitVec.eq_of_toNat_eq (hpga.symm.trans hpga'),
    muxCode_injective (hmux.symm.trans hmux'), modeCode_injective (hmode.symm.trans hmode')⟩

/-- A mask with no bit in a range drops the code placed there. -/
theorem placeField_and_eq_zero {r : BitRange} {m : Word} (hm : ~~~ fieldMask r &&& m = m)
    (code : Nat) : placeField r code &&& m = 0#16 := by
  rw [← hm, ← BitVec.and_assoc, placeField_and_not_fieldMask]
  exact BitVec.zero_and

/-- Outside the gain range a gain leaves what the profile and the selection put there (R61). -/
theorem buildConfig_and_not_pgaMask (L : CfgLayout) (g : GainCode) (sel : InputSel)
    (p : Profile) :
    buildConfig L g sel p &&& ~~~ fieldMask L.pga =
      (profileConst L p ||| placeField L.mux (muxCode L sel)) &&& ~~~ fieldMask L.pga := by
  rw [buildConfig, BitVec.and_or_distrib_right, placeField_and_not_fieldMask]
  exact BitVec.or_zero

/-- Outside both ranges the word is its profile's constant (R61 law 5). -/
theorem buildConfig_and_profileMask (g : GainCode) (sel : InputSel) (p : Profile) :
    buildConfig ads1x15Layout g sel p &&& 0x81FF = BitVec.ofNat 16 (profileNumber p) := by
  have hmux : placeField ads1x15Layout.mux (muxCode ads1x15Layout sel) &&& 0x81FF = 0#16 :=
    placeField_and_eq_zero (by decide) _
  have hpga : placeField ads1x15Layout.pga g.toNat &&& 0x81FF = 0#16 :=
    placeField_and_eq_zero (by decide) _
  have hprofile : profileConst ads1x15Layout p &&& 0x81FF = BitVec.ofNat 16 (profileNumber p) := by
    cases p <;> decide
  rw [buildConfig, BitVec.and_or_distrib_right, BitVec.and_or_distrib_right, hmux, hpga, hprofile,
    BitVec.or_zero, BitVec.or_zero]

/-- A row of R62 is the row of gain 0 with the gain added on. -/
theorem buildConfig_eq_add (g : GainCode) (sel : InputSel) (p : Profile) :
    buildConfig ads1x15Layout g sel p =
      buildConfig ads1x15Layout 0 sel p + BitVec.ofNat 16 (0x0200 * g.toNat) := by
  rw [buildConfig_eq_sum, buildConfig_eq_sum, ← BitVec.ofNat_add, Nat.mul_comm 0x0200]
  rfl

/-- The `legacy_unset` word cannot be told from the comparator armed on the pair 0−1 (R60). -/
theorem unsetMuxConfig_eq_pair01 (g : GainCode) :
    unsetMuxConfig ads1x15Layout g = buildConfig ads1x15Layout g .pair01 .cmpArm := by
  have hmux : placeField ads1x15Layout.mux (muxCode ads1x15Layout .pair01) = 0#16 := by decide
  rw [unsetMuxConfig, buildConfig, hmux, BitVec.or_zero]

end Sys2Proof.Machine
end

section
/-! Support: the two packers that take a channel (R56, R59, R60), and the commands that leave
`GAIN` alone, executed and issued by the host. -/

namespace Sys2Proof.Machine

/-- The word of an opcode and an operand given as a number (R36). -/
theorem cmdWord_ofNat (op : BitVec 4) {c : Nat} (hc : c < 65536) :
    cmdWord op (BitVec.ofNat 16 c) = BitVec.ofNat 20 (op.toNat * 65536 + c) := by
  have hop := op.isLt
  apply BitVec.eq_of_toNat_eq
  rw [cmdWord_toNat, BitVec.toNat_ofNat, BitVec.toNat_ofNat]
  omega

theorem singleEndedWord_of_lt {c : Nat} (hc : c < 4) (p : Params) (g : GainCode) :
    singleEndedWord p g c = .ok (buildConfig p.layout g (.ch ⟨c, hc⟩) .read) := by
  rw [singleEndedWord, channelOf_of_lt hc]

theorem singleEndedWord_of_gt {c : Nat} (hc : 3 < c) (p : Params) (g : GainCode) :
    singleEndedWord p g c = .error .invalidChannel := by
  rw [singleEndedWord, channelOf_of_le hc]

theorem cmpArmWord_of_lt {c : Nat} (hc : c < 4) (p : Params) (g : GainCode) :
    cmpArmWord p g c = .ok (buildConfig p.layout g (.ch ⟨c, hc⟩) .cmpArm) := by
  rw [cmpArmWord, channelOf_of_lt hc]

theorem cmpArmWord_of_gt_fault {c : Nat} (hc : 3 < c) (family : Family) (L : CfgLayout)
    (g : GainCode) : cmpArmWord ⟨family, L, .fault⟩ g c = .error .invalidChannel := by
  rw [cmpArmWord, channelOf_of_le hc]

theorem cmpArmWord_of_gt_legacyUnset {c : Nat} (hc : 3 < c) (family : Family) (L : CfgLayout)
    (g : GainCode) : cmpArmWord ⟨family, L, .legacyUnset⟩ g c = .ok (unsetMuxConfig L g) := by
  rw [cmpArmWord, channelOf_of_le hc]

/-- The `legacy_unset` word as R59 prints it. -/
theorem unsetMuxConfig_eq_or (g : GainCode) :
    unsetMuxConfig ads1x15Layout g = 0x0084 ||| lsl16 (zext16 g) 9 := by
  rw [unsetMuxConfig_eq_pair01, buildConfig_eq_or]
  rfl

/-- A packer's result is a fault or a word of `buildConfig` for the gain in force. -/
theorem resultOf_of_isBuild {i : Instr} (hi : isBuild i = true) {g : GainCode} {w : Word}
    (h : resultOf i g = .ok w) : ∃ sel p, w = buildConfig ads1x15Layout g sel p := by
  cases i with
  | buildSe c =>
    by_cases hc : c < 4
    · cases (singleEndedWord_of_lt hc _ g).symm.trans h
      exact ⟨_, _, rfl⟩
    · cases (singleEndedWord_of_gt (Nat.le_of_not_lt hc) _ g).symm.trans h
  | buildD01 => cases h; exact ⟨_, _, rfl⟩
  | buildD23 => cases h; exact ⟨_, _, rfl⟩
  | buildCmp c =>
    by_cases hc : c < 4
    · cases (cmpArmWord_of_lt hc _ g).symm.trans h
      exact ⟨_, _, rfl⟩
    · cases (cmpArmWord_of_gt_fault (Nat.le_of_not_lt hc) _ _ g).symm.trans h
  | _ => cases hi

theorem gainAfter_of_isBuild {i : Instr} (hi : isBuild i = true) (g : GainCode) :
    gainAfter i g = g := by
  cases i with
  | setGain n => cases hi
  | _ => rfl

/-- A response with status OK carries a result. -/
theorem eq_ok_of_responseOf_st {r : Except CodecFault Word} (h : (responseOf r).st = .ok) :
    r = .ok (responseOf r).res := by
  cases r with
  | ok v => rfl
  | error f => exact absurd h (faultStatus_ne_ok f)

/-- A command that leaves `GAIN` alone answers and does nothing else. -/
theorem exec_of_gainAfter_eq {i : Instr} {s : State} (hgain : gainAfter i s.gain = s.gain) :
    exec i s = .next (s.answer (responseOf (resultOf i s.gain))) := by
  rw [exec_eq, execOutput, hgain, State.withGain_self]

/-- The host that issues such a command goes on with its answer. -/
theorem issue_of_gainAfter_eq {i : Instr} (hi : WellFormed i = true) {s : State}
    (hgain : gainAfter i s.gain = s.gain) (k : Response → State → Out) :
    issue i s k =
      k (responseOf (resultOf i s.gain)) (s.answer (responseOf (resultOf i s.gain))) := by
  rw [issue_eq, commandOutput_of_decode (decode_encode hi), execOutput, hgain, State.withGain_self]

/-- A word that is no command is answered with `IllegalCommand` (R89). -/
theorem command_of_reject {w : Cmd} {e : DecodeReject} (h : decode w = .error e) (s : State) :
    command w s = .next (s.answer ⟨0x0000, .illegalCommand⟩) := by
  rw [command_eq, commandOutput_of_reject h, State.withGain_self]

/-- A word with an operand where the command takes none is no command (R38). -/
theorem command_of_strayOperand {op : BitVec 4} {arg : Word} {i : Instr} {e : DecodeReject}
    (hdecode : decode (cmdWord op arg) = if arg.toNat = 0 then .ok i else .error e)
    (harg : arg ≠ 0) (s : State) :
    command (cmdWord op arg) s = .next (s.answer ⟨0x0000, .illegalCommand⟩) := by
  have hoperand : arg.toNat ≠ 0 := fun hzero => harg (BitVec.eq_of_toNat_eq hzero)
  exact command_of_reject (hdecode.trans (if_neg hoperand)) s

/-- A single-ended read of a channel above 3: one command, the sample 0, no transaction (R56). -/
theorem readSingleEnded_of_gt {channel : Word} (hc : 3 < channel.toNat) (s : State) :
    readSingleEnded channel s =
      .next ((s.answer ⟨0x0000, .invalidChannel⟩).giveBack (.unsignedSample 0)) := by
  have hform : WellFormed (.buildSe channel.toNat) = true := decide_eq_true channel.isLt
  have hresponse : responseOf (resultOf (.buildSe channel.toNat) s.gain) =
      ⟨0x0000, .invalidChannel⟩ :=
    congrArg responseOf (singleEndedWord_of_gt hc Config.params s.gain)
  rw [readSingleEnded, issue_of_gainAfter_eq hform rfl, hresponse, if_pos rfl]

/-- The arm operation on a valid channel: two commands, then the threshold, then the configuration
word (R112). -/
theorem startComparatorSingleEnded_of_ok {channel threshold cfg : Word} {s : State}
    (hcfg : cmpArmWord Config.params s.gain channel.toNat = .ok cfg) :
    startComparatorSingleEnded channel threshold s =
      .next ((afterRegWrite .config cfg
        (afterRegWrite .highThreshold (encodeThreshold Config.params.family threshold)
          ((s.answer ⟨cfg, .ok⟩).answer
            ⟨encodeThreshold Config.params.family threshold, .ok⟩))).giveBack .nothing) := by
  have hform : WellFormed (.buildCmp channel.toNat) = true := decide_eq_true channel.isLt
  have hresponse : responseOf (resultOf (.buildCmp channel.toNat) s.gain) = ⟨cfg, .ok⟩ :=
    congrArg responseOf hcfg
  rw [startComparatorSingleEnded, issue_of_gainAfter_eq hform rfl, hresponse, if_neg nofun,
    issue_of_gainAfter_eq rfl rfl, regWrite_pointerOf, andThen_next, regWrite_pointerOf,
    andThen_next]
  rfl

end Sys2Proof.Machine
end

section
/-! The obligations about the configuration-word packer (40_config_packer.md). -/

namespace Sys2Proof.Proofs

open Sys2Proof.Machine

/-- Settles O12: a valid channel is one of the four selections of `buildConfig_ch_eq_or`; above 3
the command faults, and the host's read stops at that response. -/
theorem buildSingleEnded : Obligations.BuildSingleEnded := by
  intro s c
  have hexec : exec (.buildSe c) s =
      .next (s.answer (responseOf (singleEndedWord Config.params s.gain c))) :=
    exec_of_gainAfter_eq rfl
  refine ⟨cmdWord_ofNat 0x1, fun hc => ?_, fun hc => ?_, fun hc hlt => ?_⟩
  · rw [hexec, singleEndedWord_of_lt (Nat.lt_succ_of_le hc), params_layout, buildConfig_ch_eq_or]
    rfl
  · rw [hexec, singleEndedWord_of_gt hc]
    rfl
  · have hchannel : (BitVec.ofNat 16 c).toNat = c := Nat.mod_eq_of_lt hlt
    exact readSingleEnded_of_gt (hchannel.symm ▸ hc) s

/-- Settles O15: as for O12, the word above 3 under either policy; the arm operation's log ends with
its two writes in order. -/
theorem buildComparatorArm : Obligations.BuildComparatorArm := by
  refine ⟨fun s c => ?_, fun family g c hc => ?_, fun channel threshold s hc => ?_⟩
  · have hexec : exec (.buildCmp c) s =
        .next (s.answer (responseOf (cmpArmWord Config.params s.gain c))) :=
      exec_of_gainAfter_eq rfl
    refine ⟨cmdWord_ofNat 0x4, fun hc => ?_, fun hc => ?_⟩
    · rw [hexec, cmpArmWord_of_lt (Nat.lt_succ_of_le hc), params_layout, buildConfig_ch_eq_or]
      rfl
    · have hfault : cmpArmWord Config.params s.gain c = .error .invalidChannel :=
        cmpArmWord_of_gt_fault hc _ _ _
      rw [hexec, hfault]
      rfl
  · rw [cmpArmWord_of_gt_legacyUnset hc, unsetMuxConfig_eq_or]
    exact ⟨cmpArmWord_of_gt_fault hc family _ g, rfl⟩
  · have hcfg := cmpArmWord_of_lt (Nat.lt_succ_of_le hc) Config.params s.gain
    rw [params_layout, buildConfig_ch_eq_or, BitVec.ofNat_toNat, BitVec.setWidth_eq] at hcfg
    exact ⟨_, _, startComparatorSingleEnded_of_ok hcfg, rfl⟩

/-- Settles O31: laws 1, 3, 4 and 6 read the fields back, laws 2, 3 and 5 mask them out. -/
theorem packerLaws : Obligations.PackerLaws := by
  have hmuxMask : fieldMask ads1x15Layout.mux = 0x7000 := by decide
  have hpgaMask : fieldMask ads1x15Layout.pga = 0x0E00 := by decide
  refine ⟨fun g p c => ⟨?_, fun d => ?_⟩, fun g h sel p => ⟨?_, ?_⟩,
    fun _ _ _ _ _ _ => buildConfig_injective,
    fun g sel => ⟨buildConfig_and_profileMask g sel .read,
      buildConfig_and_profileMask g sel .cmpArm⟩,
    fun i s t r hi hg ht hr hok => ?_⟩
  · obtain ⟨hmux, -⟩ := readField_buildConfig_mux_pga_mode_dr g (.ch c) p
    rw [hmux, muxCode_ch]
  · rw [← hmuxMask, buildConfig_and_not_muxMask, buildConfig_and_not_muxMask]
  · obtain ⟨-, hpga, -⟩ := readField_buildConfig_mux_pga_mode_dr g sel p
    exact hpga
  · rw [← hpgaMask, buildConfig_and_not_pgaMask, buildConfig_and_not_pgaMask]
  · cases (exec_of_gainAfter_eq (gainAfter_of_isBuild hi s.gain)).symm.trans ht
    cases (State.answerAfter_answer s _).symm.trans hr
    obtain ⟨sel, p, hword⟩ := resultOf_of_isBuild hi (eq_ok_of_responseOf_st hok)
    obtain ⟨hmux, hpga, -, hdr⟩ := readField_buildConfig_mux_pga_mode_dr s.gain sel p
    rw [hword, hmux, hpga]
    exact ⟨hg, (muxCode_ne_reserved sel).1, (muxCode_ne_reserved sel).2, hdr⟩

/-- Settles O13: the pair's multiplexer code is 0, so the word is the profile with the gain. -/
theorem buildPair01 : Obligations.BuildPair01 := by
  refine ⟨rfl, fun s => ⟨?_, fun arg harg => ?_⟩⟩
  · have hword : buildConfig ads1x15Layout s.gain .pair01 .read =
        0x8183 ||| lsl16 (zext16 s.gain) 9 := buildConfig_eq_or s.gain .pair01 .read
    rw [← hword]
    exact exec_of_gainAfter_eq rfl
  · exact command_of_strayOperand (decode_cmdWord_buildD01 arg) harg s

/-- Settles O14: the profile and the pair's code together are 0xB183. -/
theorem buildPair23 : Obligations.BuildPair23 := by
  refine ⟨rfl, fun s => ⟨?_, fun arg harg => ?_⟩⟩
  · have hword : buildConfig ads1x15Layout s.gain .pair23 .read =
        0xB183 ||| lsl16 (zext16 s.gain) 9 := buildConfig_eq_or s.gain .pair23 .read
    rw [← hword]
    exact exec_of_gainAfter_eq rfl
  · exact command_of_strayOperand (decode_cmdWord_buildD23 arg) harg s

/-- Settles O32: each row is the row of gain 0 with the gain added on, and the two rows of gain 0
are the printed ones. -/
theorem packerWordTable : Obligations.PackerWordTable := by
  intro g _
  have hread : [InputSel.ch 0, .ch 1, .ch 2, .ch 3, .pair01, .pair23].map
      (fun sel => buildConfig ads1x15Layout 0 sel .read) =
        [0xC183, 0xD183, 0xE183, 0xF183, 0x8183, 0xB183] := by decide
  have harm : [InputSel.ch 0, .ch 1, .ch 2, .ch 3, .pair01].map
      (fun sel => buildConfig ads1x15Layout 0 sel .cmpArm) =
        [0x4084, 0x5084, 0x6084, 0x7084, 0x0084] := by decide
  rw [← hread, ← harm, unsetMuxConfig_eq_pair01]
  simp only [List.map_cons, List.map_nil, List.cons_append, List.nil_append, ← buildConfig_eq_add,
    and_self]

end Sys2Proof.Proofs
end

section
/-! Support: signed 16-bit words as integers (R8), the signed unpacker as a floor division and the
range it fills (R69, laws 1 and 3). -/

namespace Sys2Proof.Machine

theorem toInt16_eq_toInt (v : Word) : toInt16 v = v.toInt := by
  rw [BitVec.toInt_eq_msb_cond, BitVec.msb_eq_getLsbD_last]
  rfl

theorem toInt16_ge (v : Word) : -32768 ≤ toInt16 v := by
  rw [toInt16_eq_toInt]
  exact BitVec.le_toInt v

theorem toInt16_lt (v : Word) : toInt16 v < 32768 := by
  rw [toInt16_eq_toInt]
  exact BitVec.toInt_lt

theorem toInt16_fromInt16 {z : Int} (hlo : -32768 ≤ z) (hhi : z < 32768) :
    toInt16 (fromInt16 z) = z := by
  rw [toInt16_eq_toInt]
  exact BitVec.toInt_ofInt_eq_self (by decide) hlo hhi

/-- A left shift multiplies the integer, modulo 65536. -/
theorem lsl16_fromInt16 (z : Int) (n : Nat) : lsl16 (fromInt16 z) n = fromInt16 (z * 2 ^ n) := by
  have hpow : BitVec.twoPow 16 n = BitVec.ofInt 16 (2 ^ n) := by
    apply BitVec.eq_of_toNat_eq
    rw [BitVec.toNat_twoPow, BitVec.toNat_ofInt]
    norm_cast
  rw [fromInt16, fromInt16, BitVec.ofInt_mul, ← hpow, ← BitVec.shiftLeft_eq_mul_twoPow]
  rfl

/-- Dividing a signed word by `2^SHIFT` gives a number of `16 - SHIFT` bits. -/
theorem fdiv_shiftWidth_range (f : Family) (v : Word) :
    -2 ^ (15 - shiftWidth f) ≤ (toInt16 v).fdiv (2 ^ shiftWidth f) ∧
    (toInt16 v).fdiv (2 ^ shiftWidth f) ≤ 2 ^ (15 - shiftWidth f) - 1 := by
  have hlo := toInt16_ge v
  have hhi := toInt16_lt v
  rw [Int.fdiv_eq_ediv_of_nonneg _ (by positivity)]
  cases f <;> simp only [shiftWidth] <;> omega

/-- A number of `16 - SHIFT` bits is a signed word. -/
theorem word_range_of_sample_range {f : Family} {z : Int} (hlo : -2 ^ (15 - shiftWidth f) ≤ z)
    (hhi : z ≤ 2 ^ (15 - shiftWidth f) - 1) : -32768 ≤ z ∧ z < 32768 := by
  cases f <;> simp only [shiftWidth] at * <;> omega

/-- A number of `16 - SHIFT` bits is a signed word even after multiplication by `2^SHIFT`. -/
theorem mul_shiftWidth_range {f : Family} {z : Int} (hlo : -2 ^ (15 - shiftWidth f) ≤ z)
    (hhi : z ≤ 2 ^ (15 - shiftWidth f) - 1) :
    -32768 ≤ z * 2 ^ shiftWidth f ∧ z * 2 ^ shiftWidth f < 32768 := by
  cases f <;> simp only [shiftWidth] at * <;> omega

/-- R69 law 1 on integers: the quotient fits a word, so nothing is lost modulo 65536. -/
theorem toInt16_decodeSample (f : Family) (raw : Word) :
    toInt16 (decodeSample f raw) = (toInt16 raw).fdiv (2 ^ shiftWidth f) := by
  obtain ⟨hlo, hhi⟩ := fdiv_shiftWidth_range f raw
  obtain ⟨hmin, hmax⟩ := word_range_of_sample_range hlo hhi
  rw [decodeSample_eq_asr16]
  exact toInt16_fromInt16 hmin hmax

/-- R69 law 3, every number of the range is reached: placed in the upper bits of a raw value it is
that value's sample. -/
theorem toInt16_decodeSample_lsl16 {f : Family} {z : Int} (hlo : -2 ^ (15 - shiftWidth f) ≤ z)
    (hhi : z ≤ 2 ^ (15 - shiftWidth f) - 1) :
    toInt16 (decodeSample f (lsl16 (fromInt16 z) (shiftWidth f))) = z := by
  obtain ⟨hmin, hmax⟩ := mul_shiftWidth_range hlo hhi
  rw [toInt16_decodeSample, lsl16_fromInt16, toInt16_fromInt16 hmin hmax,
    Int.mul_fdiv_cancel _ (by positivity)]

end Sys2Proof.Machine
end

section
/-! Support: the unsigned unpacker as a field of the raw value, and bit by bit (R66). -/

namespace Sys2Proof.Machine

theorem decodeUnsigned_toNat (f : Family) (raw : Word) :
    (decodeUnsigned f raw).toNat = raw.toNat / 2 ^ shiftWidth f :=
  lsr16_toNat raw (shiftWidth f)

theorem getLsbD_decodeUnsigned (f : Family) (raw : Word) (n : Nat) :
    (decodeUnsigned f raw).getLsbD n = raw.getLsbD (shiftWidth f + n) :=
  BitVec.getLsbD_ushiftRight raw (shiftWidth f) n

/-- Bit 11 of the shifted value is the top bit of the raw one. -/
theorem decodeUnsigned_family12_signBit (raw : Word) :
    (decodeUnsigned .family12 raw).getLsbD 11 = raw.getLsbD 15 :=
  getLsbD_decodeUnsigned .family12 raw 11

theorem decodeUnsigned_family16 (raw : Word) : decodeUnsigned .family16 raw = raw :=
  BitVec.ushiftRight_zero raw

/-- R68 in the 12-bit family: `raw[15:4]` with zeros above. -/
theorem decodeUnsigned_family12 (raw : Word) :
    decodeUnsigned .family12 raw = (raw.extractLsb' 4 12).setWidth 16 := by
  have hraw := raw.isLt
  apply BitVec.eq_of_toNat_eq
  rw [decodeUnsigned_toNat, BitVec.toNat_setWidth, BitVec.extractLsb'_toNat,
    Nat.shiftRight_eq_div_pow]
  simp only [shiftWidth]
  omega

/-- What the shift leaves is a number of `16 - SHIFT` bits (R69 law 6). -/
theorem decodeUnsigned_toNat_lt (f : Family) (raw : Word) :
    (decodeUnsigned f raw).toNat < 2 ^ (16 - shiftWidth f) := by
  have hraw := raw.isLt
  rw [decodeUnsigned_toNat]
  cases f <;> simp only [shiftWidth] <;> omega

/-- Raw values that agree from bit `SHIFT` up have the same sample (R69 law 7). -/
theorem decodeUnsigned_congr {f : Family} {v raw : Word}
    (h : ∀ n, shiftWidth f ≤ n → v.getLsbD n = raw.getLsbD n) :
    decodeUnsigned f v = decodeUnsigned f raw := by
  apply BitVec.eq_of_getLsbD_eq
  intro n _
  rw [getLsbD_decodeUnsigned, getLsbD_decodeUnsigned, h _ (Nat.le_add_right _ n)]

/-- The mask of R69 law 7 keeps every bit from bit 4 up. -/
theorem getLsbD_and_sampleMask (raw : Word) {n : Nat} (hn : 4 ≤ n) :
    raw.getLsbD n = (raw &&& 0xFFF0).getLsbD n := by
  have hmask : (0xFFF0 : Word) = BitVec.allOnes 16 <<< 4 := by decide
  by_cases hword : n < 16
  · have hkept : n - 4 < 16 := by omega
    rw [BitVec.getLsbD_and, hmask, BitVec.getLsbD_shiftLeft, BitVec.getLsbD_allOnes]
    simp [hword, hkept, hn]
  · rw [BitVec.getLsbD_of_ge _ _ (Nat.le_of_not_lt hword),
      BitVec.getLsbD_of_ge _ _ (Nat.le_of_not_lt hword)]

theorem decodeUnsigned_family12_and_sampleMask (raw : Word) :
    decodeUnsigned .family12 raw = decodeUnsigned .family12 (raw &&& 0xFFF0) :=
  decodeUnsigned_congr fun _ => getLsbD_and_sampleMask raw

/-- R69 law 8: the original driver's test for a negative sample is the test of bit 11. -/
theorem decodeUnsigned_family12_gt_iff (raw : Word) :
    0x07FF < (decodeUnsigned .family12 raw).toNat ↔
      (decodeUnsigned .family12 raw).getLsbD 11 = true := by
  rw [decodeUnsigned_family12_signBit, getLsbD_15_eq, decide_eq_true_eq, decodeUnsigned_toNat]
  simp only [shiftWidth]
  omega

end Sys2Proof.Machine
end

section
/-! Support: the signed unpacker, as a field of the raw value and against the unsigned one (R65). -/

namespace Sys2Proof.Machine

/-- The signed sample is read off the unsigned one. -/
theorem decodeSample_eq_ite (f : Family) (raw : Word) :
    decodeSample f raw =
      if shiftWidth f ≠ 0 ∧ (decodeUnsigned f raw).getLsbD 11 = true
      then decodeUnsigned f raw ||| 0xF000 else decodeUnsigned f raw := rfl

theorem decodeSample_congr {f : Family} {v raw : Word}
    (h : decodeUnsigned f v = decodeUnsigned f raw) : decodeSample f v = decodeSample f raw := by
  rw [decodeSample_eq_ite, h, ← decodeSample_eq_ite]

/-- R69 law 2. -/
theorem decodeSample_family16 (raw : Word) : decodeSample .family16 raw = raw := by
  have hnoSign : ¬(shiftWidth .family16 ≠ 0 ∧
      (decodeUnsigned .family16 raw).getLsbD 11 = true) := fun h => h.1 rfl
  rw [decodeSample_eq_ite, if_neg hnoSign, decodeUnsigned_family16]

/-- The sign of the field `raw[15:4]` is the top bit of the raw value. -/
theorem msb_sampleField (raw : Word) : (raw.extractLsb' 4 12).msb = raw.getLsbD 15 := by
  rw [BitVec.msb_eq_getLsbD_last, BitVec.getLsbD_extractLsb']
  rfl

/-- R67 in the 12-bit family: `raw[15:4]` with its sign above. -/
theorem decodeSample_family12 (raw : Word) :
    decodeSample .family12 raw = (raw.extractLsb' 4 12).signExtend 16 := by
  apply BitVec.eq_of_toNat_eq
  rw [BitVec.toNat_signExtend, ← decodeUnsigned_family12, decodeUnsigned_toNat, msb_sampleField,
    getLsbD_15_eq, decodeSample_family12_toNat]
  simp only [shiftWidth, decide_eq_true_eq]
  rfl

/-- R69 law 5: the two unpackers differ by the sign bits. -/
theorem decodeSample_family12_eq_or (raw : Word) :
    decodeSample .family12 raw =
      decodeUnsigned .family12 raw ||| (if raw.getLsbD 15 then 0xF000 else 0x0000) := by
  have hshifted : shiftWidth .family12 ≠ 0 := by decide
  rw [decodeSample_eq_ite, decodeUnsigned_family12_signBit]
  by_cases hneg : raw.getLsbD 15 = true
  · rw [if_pos ⟨hshifted, hneg⟩, if_pos hneg]
  · rw [if_neg fun h => hneg h.2, if_neg hneg]
    exact BitVec.or_zero.symm

/-- R69 law 5: without sign bits to set, the two unpackers are equal. -/
theorem decodeSample_eq_decodeUnsigned {f : Family} {raw : Word}
    (h : raw.getLsbD 15 = false ∨ shiftWidth f = 0) : decodeSample f raw = decodeUnsigned f raw := by
  cases f with
  | family16 => rw [decodeSample_family16, decodeUnsigned_family16]
  | family12 =>
    have hpositive : raw.getLsbD 15 = false := h.resolve_right (by decide)
    rw [decodeSample_family12_eq_or, hpositive, if_neg nofun]
    exact BitVec.or_zero

/-- R69 law 5: below the sign bits the two unpackers agree. -/
theorem getLsbD_decodeSample {f : Family} {n : Nat} (hn : n ≤ 15 - shiftWidth f) (raw : Word) :
    (decodeSample f raw).getLsbD n = (decodeUnsigned f raw).getLsbD n := by
  cases f with
  | family16 => rw [decodeSample_family16, decodeUnsigned_family16]
  | family12 =>
    have hfield : n < 12 := Nat.lt_succ_of_le hn
    rw [decodeSample_family12, decodeUnsigned_family12, BitVec.getLsbD_signExtend,
      BitVec.getLsbD_setWidth, if_pos hfield]

/-- R69 law 4: the unsigned sample leaves the top four bits to the sign. -/
theorem decodeSample_family12_upper (raw : Word) :
    (decodeSample .family12 raw).extractLsb' 12 4 =
      if raw.getLsbD 15 then 0b1111 else 0b0000 := by
  have hunsigned : (decodeUnsigned .family12 raw).extractLsb' 12 4 = 0 := by
    have hlt : (decodeUnsigned .family12 raw).toNat < 2 ^ 12 := decodeUnsigned_toNat_lt _ raw
    apply BitVec.eq_of_toNat_eq
    rw [BitVec.extractLsb'_toNat, Nat.shiftRight_eq_zero _ _ hlt]
    rfl
  rw [decodeSample_family12_eq_or, BitVec.extractLsb'_or, hunsigned]
  split
  · rfl
  · rfl

end Sys2Proof.Machine
end

section
/-! Support: a command word whose operand is any word, as a number (R67, R68, R74). -/

namespace Sys2Proof.Machine

theorem cmdWord_eq_ofNat (op : BitVec 4) (arg : Word) :
    cmdWord op arg = BitVec.ofNat 20 (op.toNat * 65536 + arg.toNat) := by
  rw [← cmdWord_toNat, BitVec.ofNat_toNat, BitVec.setWidth_eq]

end Sys2Proof.Machine
end

section
/-! The obligations about the sample unpacker (41_sample_unpacker.md). -/

namespace Sys2Proof.Proofs

open Sys2Proof.Machine

/-- Settles O29: the integer laws come from the floor division, the laws about single bits and
fields from the unsigned sample, which the signed one extends by its sign bits. -/
theorem unpackerLaws : Obligations.UnpackerLaws := by
  refine ⟨fun f raw => ?_, fun f z => toInt16_decodeSample_lsl16, fun raw => ?_⟩
  · obtain ⟨hlo, hhi⟩ := fdiv_shiftWidth_range f raw
    rw [← toInt16_decodeSample] at hlo hhi
    exact ⟨decodeSample_eq_asr16 f raw, toInt16_decodeSample f raw, hlo, hhi,
      fun _ hn => getLsbD_decodeSample hn raw, decodeSample_eq_decodeUnsigned,
      Nat.le_sub_one_of_lt (decodeUnsigned_toNat_lt f raw),
      fun _ h => ⟨decodeSample_congr (decodeUnsigned_congr h), decodeUnsigned_congr h⟩⟩
  · have hmask := decodeUnsigned_family12_and_sampleMask raw
    exact ⟨decodeSample_family16 raw, decodeSample_family12_upper raw,
      decodeSample_family12_eq_or raw, decodeSample_congr hmask, hmask,
      decodeUnsigned_family12_gt_iff raw⟩

/-- Settles O16: the command answers the signed sample, whatever the family built. -/
theorem decodeSigned : Obligations.DecodeSigned := by
  intro s raw
  have hexec : exec (.decode raw) s = .next (s.answer ⟨decodeSample Config.family raw, .ok⟩) :=
    exec_of_gainAfter_eq rfl
  refine ⟨cmdWord_eq_ofNat 0x5 raw, hexec.trans ?_⟩
  cases Config.family with
  | family12 => rw [decodeSample_family12]
  | family16 => rw [decodeSample_family16]

/-- Settles O17: the command answers the unsigned sample, whatever the family built. -/
theorem decodeUnsigned : Obligations.DecodeUnsigned := by
  intro s raw
  have hexec : exec (.decodeU raw) s =
      .next (s.answer ⟨Machine.decodeUnsigned Config.family raw, .ok⟩) :=
    exec_of_gainAfter_eq rfl
  refine ⟨cmdWord_eq_ofNat 0x6 raw, hexec.trans ?_⟩
  cases Config.family with
  | family12 => rw [decodeUnsigned_family12]
  | family16 => rw [decodeUnsigned_family16]

/-- Settles O24: the result of each of the three is a function of its operand and the family. -/
theorem unpackAndThresholdIgnoreGain : Obligations.UnpackAndThresholdIgnoreGain := fun _ _ _ =>
  ⟨⟨_, exec_of_gainAfter_eq rfl, exec_of_gainAfter_eq rfl⟩,
    ⟨_, exec_of_gainAfter_eq rfl, exec_of_gainAfter_eq rfl⟩,
    ⟨_, exec_of_gainAfter_eq rfl, exec_of_gainAfter_eq rfl⟩⟩

end Sys2Proof.Proofs
end

section
/-! Support: the threshold packer as a field of the threshold (R73, R74), bit by bit, and as a
product of signed integers (R75). -/

namespace Sys2Proof.Machine

theorem encodeThreshold_family16 (t : Word) : encodeThreshold .family16 t = t :=
  BitVec.shiftLeft_zero t

/-- R73 in the 12-bit family: `t[11:0]` with four zeros below. -/
theorem encodeThreshold_family12 (t : Word) :
    encodeThreshold .family12 t = t.extractLsb' 0 12 ++ 0b0000#4 :=
  BitVec.shiftLeft_eq_concat_of_lt (by decide)

theorem getLsbD_encodeThreshold (f : Family) (t : Word) {n : Nat} (hn : n < 16) :
    (encodeThreshold f t).getLsbD n =
      (!decide (n < shiftWidth f) && t.getLsbD (n - shiftWidth f)) := by
  rw [encodeThreshold, lsl16, BitVec.getLsbD_shiftLeft, decide_eq_true hn, Bool.true_and]

/-- The mask of R75 law 2 clears the bits below `k` and keeps the others. -/
theorem getLsbD_and_not_lowMask (v : Word) (k : Nat) {n : Nat} (hn : n < 16) :
    (v &&& ~~~ BitVec.ofNat 16 (2 ^ k - 1)).getLsbD n = (!decide (n < k) && v.getLsbD n) := by
  rw [BitVec.getLsbD_and, BitVec.getLsbD_not, BitVec.getLsbD_ofNat, Nat.testBit_two_pow_sub_one,
    decide_eq_true hn, Bool.true_and, Bool.true_and, Bool.and_comm]

/-- R75 law 2: from bit `SHIFT` up, the packer puts each bit back where the unpacker took it. -/
theorem encodeThreshold_decodeSample (f : Family) (raw : Word) :
    encodeThreshold f (decodeSample f raw) =
      raw &&& ~~~ BitVec.ofNat 16 (2 ^ shiftWidth f - 1) := by
  apply BitVec.eq_of_getLsbD_eq
  intro n hn
  rw [getLsbD_encodeThreshold f _ hn, getLsbD_and_not_lowMask raw _ hn]
  by_cases hlow : n < shiftWidth f
  · rw [decide_eq_true hlow, Bool.not_true, Bool.false_and, Bool.false_and]
  · have hfield : n - shiftWidth f ≤ 15 - shiftWidth f :=
      Nat.sub_le_sub_right (Nat.le_of_lt_succ hn) _
    rw [getLsbD_decodeSample hfield, getLsbD_decodeUnsigned,
      Nat.add_sub_cancel' (Nat.le_of_not_lt hlow)]

/-- A packed threshold has nothing below bit `SHIFT` to clear. -/
theorem encodeThreshold_and_not_lowMask (f : Family) (t : Word) :
    encodeThreshold f t &&& ~~~ BitVec.ofNat 16 (2 ^ shiftWidth f - 1) = encodeThreshold f t := by
  apply BitVec.eq_of_getLsbD_eq
  intro n hn
  rw [getLsbD_and_not_lowMask _ _ hn, getLsbD_encodeThreshold f t hn, ← Bool.and_assoc,
    Bool.and_self]

/-- R75 law 4. -/
theorem encodeThreshold_family12_lower (t : Word) :
    (encodeThreshold .family12 t).extractLsb' 0 4 = 0b0000 := by
  rw [encodeThreshold_family12]
  exact BitVec.extractLsb'_append_eq_right

/-- R75 law 5: the mask keeps all of `t[11:0]`. -/
theorem encodeThreshold_family12_and_lowField (t : Word) :
    encodeThreshold .family12 t = encodeThreshold .family12 (t &&& 0x0FFF) := by
  have hfield : (t &&& 0x0FFF).extractLsb' 0 12 = t.extractLsb' 0 12 := by
    rw [BitVec.extractLsb'_and]
    exact BitVec.and_allOnes
  rw [encodeThreshold_family12, encodeThreshold_family12, hfield]

theorem fromInt16_toInt16 (v : Word) : fromInt16 (toInt16 v) = v := by
  rw [toInt16_eq_toInt]
  exact BitVec.ofInt_toInt

theorem toInt16_injective {v w : Word} (h : toInt16 v = toInt16 w) : v = w := by
  rw [← fromInt16_toInt16 v, h, fromInt16_toInt16]

/-- R75 law 6: a representable threshold is multiplied, and the product fits a word. -/
theorem toInt16_encodeThreshold {f : Family} {t : Word}
    (hlo : -2 ^ (15 - shiftWidth f) ≤ toInt16 t) (hhi : toInt16 t ≤ 2 ^ (15 - shiftWidth f) - 1) :
    toInt16 (encodeThreshold f t) = toInt16 t * 2 ^ shiftWidth f := by
  obtain ⟨hmin, hmax⟩ := mul_shiftWidth_range hlo hhi
  rw [← toInt16_fromInt16 hmin hmax, ← lsl16_fromInt16, fromInt16_toInt16, encodeThreshold]

/-- R75 law 1, as C2 resolves it: a sample is always in the range, and a threshold of the range is
the sample of its register word. -/
theorem decodeSample_encodeThreshold_eq_iff (f : Family) (t : Word) :
    decodeSample f (encodeThreshold f t) = t ↔
      -2 ^ (15 - shiftWidth f) ≤ toInt16 t ∧ toInt16 t ≤ 2 ^ (15 - shiftWidth f) - 1 := by
  constructor
  · intro hround
    rw [← hround, toInt16_decodeSample]
    exact fdiv_shiftWidth_range f (encodeThreshold f t)
  · rintro ⟨hlo, hhi⟩
    have hint := toInt16_decodeSample_lsl16 hlo hhi
    rw [fromInt16_toInt16] at hint
    exact toInt16_injective hint

end Sys2Proof.Machine
end

section
/-! The obligations about the threshold packer (42_threshold_packer.md). -/

namespace Sys2Proof.Proofs

open Sys2Proof.Machine

/-- Settles O18: the command answers the packed threshold, whatever the family built. -/
theorem encodeThreshold : Obligations.EncodeThreshold := by
  intro s t
  have hexec : exec (.encThr t) s =
      .next (s.answer ⟨Machine.encodeThreshold Config.family t, .ok⟩) :=
    exec_of_gainAfter_eq rfl
  refine ⟨cmdWord_eq_ofNat 0x7 t, hexec.trans ?_⟩
  cases Config.family with
  | family12 => rw [encodeThreshold_family12]
  | family16 => rw [encodeThreshold_family16]

/-- Settles O30: laws 1 and 6 come from the integers the words stand for, laws 2 and 3 from their
bits, laws 4 and 5 from the field `t[11:0]` of the 12-bit family. -/
theorem thresholdLaws : Obligations.ThresholdLaws := by
  refine ⟨fun f t => ?_, fun t =>
    ⟨encodeThreshold_family12_lower t, encodeThreshold_family12_and_lowField t⟩⟩
  have hrepack : Machine.encodeThreshold f (decodeSample f (Machine.encodeThreshold f t)) =
      Machine.encodeThreshold f t := by
    rw [encodeThreshold_decodeSample, encodeThreshold_and_not_lowMask]
  exact ⟨decodeSample_encodeThreshold_eq_iff f t, encodeThreshold_decodeSample f t, hrepack,
    fun ⟨hlo, hhi⟩ => toInt16_encodeThreshold hlo hhi⟩

end Sys2Proof.Proofs
end

section
/-! Support: what the two gain commands do (R78, R79), and the words that leave `GAIN` alone. -/

namespace Sys2Proof.Machine

theorem zext16_toNat (g : GainCode) : (zext16 g).toNat = g.toNat :=
  BitVec.toNat_setWidth_of_le (by decide)

/-- `SETGAIN` of a gain setting writes it and echoes it (R78). -/
theorem exec_setGain_of_le {g : GainCode} (hg : g.toNat ≤ 5) (s : State) :
    exec (.setGain g) s = .next ((s.withGain g).answer ⟨zext16 g, .ok⟩) := by
  rw [exec_eq, execOutput_setGain, if_neg (Nat.not_lt.mpr hg), ← zext16_eq]

/-- `SETGAIN` of a spare code faults and keeps the old gain (R78). -/
theorem exec_setGain_of_gt {g : GainCode} (hg : 5 < g.toNat) (s : State) :
    exec (.setGain g) s = .next (s.answer ⟨0x0000, .invalidGain⟩) := by
  rw [exec_eq, execOutput_setGain, if_pos hg, State.withGain_self]

theorem exec_getGain (s : State) : exec .getGain s = .next (s.answer ⟨zext16 s.gain, .ok⟩) :=
  exec_of_gainAfter_eq rfl

/-- Every word that stands for a `SETGAIN` opens with its opcode (R37). -/
theorem hasSetGainOpcode_of_decode {w : Cmd} {n : GainCode} (h : decode w = .ok (.setGain n)) :
    hasSetGainOpcode w = true := by
  obtain ⟨rfl, -⟩ := encode_of_decode h
  exact beq_iff_eq.mpr (cmdWord_toNat_div 0x8 (zext16 n))

/-- A word without that opcode, legal or not, leaves `GAIN` alone (R80 law 1). -/
theorem commandOutput_gain_of_not_setGain {w : Cmd} (h : hasSetGainOpcode w = false)
    (g : GainCode) : (commandOutput w g).1 = g := by
  cases hdecode : decode w with
  | ok i =>
    rw [commandOutput_of_decode hdecode]
    obtain hkept | ⟨n, rfl, -⟩ := gainAfter_cases i g
    · exact hkept
    · exact absurd (hasSetGainOpcode_of_decode hdecode) (Bool.eq_false_iff.mp h)
  | error e => rw [commandOutput_of_reject hdecode]

/-- A run over such words never stops, and ends with the gain it began with. -/
theorem runCommands_keeps_gain {ws : List Cmd} (hws : ∀ w ∈ ws, hasSetGainOpcode w = false)
    (s : State) : ∃ t, runCommands ws s = .next t ∧ t.gain = s.gain := by
  induction ws generalizing s with
  | nil => exact ⟨s, rfl, rfl⟩
  | cons w rest ih =>
    obtain ⟨hfirst, hrest⟩ := List.forall_mem_cons.mp hws
    rw [runCommands, command_eq, andThen_next]
    obtain ⟨t, hrun, hgain⟩ := ih hrest ((s.withGain (commandOutput w s.gain).1).answer
      (commandOutput w s.gain).2)
    exact ⟨t, hrun, hgain.trans (commandOutput_gain_of_not_setGain hfirst s.gain)⟩

/-- What a packer answers with OK is a word of `buildConfig` for the gain in force (R55). -/
theorem buildConfig_of_answer {i : Instr} {s u : State} {r : Response} (hi : isBuild i = true)
    (hu : exec i s = .next u) (hr : u.answerAfter s = some r) (hok : r.st = .ok) :
    ∃ sel p, r.res = buildConfig ads1x15Layout s.gain sel p := by
  cases (exec_of_gainAfter_eq (gainAfter_of_isBuild hi s.gain)).symm.trans hu
  cases (State.answerAfter_answer s _).symm.trans hr
  exact resultOf_of_isBuild hi (eq_ok_of_responseOf_st hok)

/-- Such a word holds the gain in force in its gain field (R80 law 2). -/
theorem readField_pga_of_answer {i : Instr} {s u : State} {r : Response} (hi : isBuild i = true)
    (hu : exec i s = .next u) (hr : u.answerAfter s = some r) (hok : r.st = .ok) :
    readField ads1x15Layout.pga r.res = s.gain.toNat := by
  obtain ⟨sel, p, hword⟩ := buildConfig_of_answer hi hu hr hok
  obtain ⟨-, hpga, -⟩ := readField_buildConfig_mux_pga_mode_dr s.gain sel p
  rw [hword, hpga]

end Sys2Proof.Machine
end

section
/-! The obligations about gain access (43_gain_access.md). -/

namespace Sys2Proof.Proofs

open Sys2Proof.Machine

/-- Settles O38: `SETGAIN` writes the gain, the words that follow keep it by induction on the run,
and in the state reached it is what `GETGAIN` answers and what a packer puts in the gain field. -/
theorem gainSurvivesUntilNextSetGain : Obligations.GainSurvivesUntilNextSetGain := by
  intro g ws s hg hws
  obtain ⟨t, hrun, hgain⟩ := runCommands_keeps_gain hws ((s.withGain g).answer ⟨zext16 g, .ok⟩)
  have hset : command (encode (.setGain g)) s =
      .next ((s.withGain g).answer ⟨zext16 g, .ok⟩) :=
    (command_of_decode (decode_encode rfl) s).trans (exec_setGain_of_le hg s)
  obtain rfl : t.gain = g := hgain
  refine ⟨t, ?_, rfl, exec_getGain t, fun i u r => readField_pga_of_answer⟩
  rw [runCommands, hset, andThen_next, hrun]

/-- Settles O19: a word of the opcode with `arg[15:3]` not zero is rejected by the decoder. -/
theorem setGainWritesOrRefuses : Obligations.SetGainWritesOrRefuses := by
  intro s g
  refine ⟨?_, fun hg => exec_setGain_of_le hg s, fun hg => exec_setGain_of_gt hg s,
    fun arg harg => ?_⟩
  · rw [← zext16_toNat g]
    exact cmdWord_eq_ofNat 0x8 (zext16 g)
  · have hform : ¬arg.toNat < 8 := fun h => harg ((strayBits_eq_zero_iff arg).mpr h)
    exact command_of_reject ((decode_cmdWord_setGain arg).trans (if_neg hform)) s

/-- Settles O20: the answer is the gain in three bits, so a legal gain bounds it. -/
theorem getGainReads : Obligations.GetGainReads :=
  ⟨rfl,
    fun s => ⟨exec_getGain s,
      fun arg harg => command_of_strayOperand (decode_cmdWord_getGain arg) harg s⟩,
    exec_getGain State.reset,
    fun s hs => (zext16_toNat s.gain).trans_le hs⟩

end Sys2Proof.Proofs
end

section
/-! Support: which words raise `IllegalCommand` (R89), and which operands fault, with what (R83). -/

namespace Sys2Proof.Machine

theorem exists_error_iff {ε α : Type} {x : Except ε α} :
    (∃ e, x = .error e) ↔ ¬x.isOk = true := by
  cases x with
  | ok a => exact ⟨nofun, fun h => absurd rfl h⟩
  | error e => exact ⟨fun _ => nofun, fun _ => ⟨e, rfl⟩⟩

/-- Where the legal operands of an opcode end (R50), class by class of R89. -/
theorem legalOperands_le_iff {op arg : Nat} (harg : arg < 65536) :
    legalOperands op ≤ arg ↔ op = 0 ∨ 10 ≤ op ∨ ((op = 2 ∨ op = 3 ∨ op = 9) ∧ arg ≠ 0) ∨
      (op = 8 ∧ 8 ≤ arg) := by
  by_cases hop : op = 0 ∨ 10 ≤ op
  · rw [legalOperands_reserved hop]
    omega
  · have hlo : 1 ≤ op := by omega
    have hhi : op ≤ 9 := by omega
    interval_cases op <;> simp [legalOperands] <;> omega

/-- A response shows the fault it stands for. -/
theorem responseOf_st_eq_faultStatus_iff {r : Except CodecFault Word} {f : CodecFault} :
    (responseOf r).st = faultStatus f ↔ r = .error f := by
  cases r with
  | ok v => exact ⟨fun h => absurd h.symm (faultStatus_ne_ok f), nofun⟩
  | error e => cases e <;> cases f <;> simp [responseOf, faultStatus]

theorem singleEndedWord_eq_error_iff (p : Params) (g : GainCode) (c : Nat) (f : CodecFault) :
    singleEndedWord p g c = .error f ↔ f = .invalidChannel ∧ 3 < c := by
  by_cases hc : 3 < c
  · simp [singleEndedWord_of_gt hc, hc, eq_comm]
  · simp [singleEndedWord_of_lt (Nat.lt_of_not_le hc), hc]

/-- Under the policy `fault` of R60. -/
theorem cmpArmWord_eq_error_iff (g : GainCode) (c : Nat) (f : CodecFault) :
    cmpArmWord Config.params g c = .error f ↔ f = .invalidChannel ∧ 3 < c := by
  by_cases hc : 3 < c
  · have hfault : cmpArmWord Config.params g c = .error .invalidChannel :=
      cmpArmWord_of_gt_fault hc _ _ g
    simp [hfault, hc, eq_comm]
  · simp [cmpArmWord_of_lt (Nat.lt_of_not_le hc), hc]

/-- The operands that fault, and with what (R85, R87): a channel above 3, a gain code above 5. -/
theorem resultOf_eq_error_iff (i : Instr) (g : GainCode) (f : CodecFault) :
    resultOf i g = .error f ↔
      (f = .invalidChannel ∧ ∃ c, 3 < c ∧ (i = .buildSe c ∨ i = .buildCmp c)) ∨
      (f = .invalidGain ∧ ∃ n : GainCode, 5 < n.toNat ∧ i = .setGain n) := by
  cases i with
  | buildSe c => simp [resultOf, singleEndedWord_eq_error_iff]
  | buildCmp c => simp [resultOf, cmpArmWord_eq_error_iff]
  | setGain n =>
    by_cases hn : n.toNat ≤ 5
    · simp [resultOf, gainValid, hn]
    · simp [resultOf, gainValid, hn, Nat.lt_of_not_le hn, eq_comm]
  | _ => simp [resultOf]

end Sys2Proof.Machine
end

section
/-! Support: fault entry (R86). A response with a fault comes with no write of `GAIN`. -/

namespace Sys2Proof.Machine

/-- The response a host receives, and the state it is received in. -/
theorem command_answered {w : Cmd} {s t : State} {r : Response} (ht : command w s = .next t)
    (hr : t.answerAfter s = some r) :
    r = (commandOutput w s.gain).2 ∧ t = (s.withGain (commandOutput w s.gain).1).answer r := by
  cases (command_eq w s).symm.trans ht
  cases (State.answerAfter_withGain_answer s _ _).symm.trans hr
  exact ⟨rfl, rfl⟩

/-- An instruction that faults does not write `GAIN`. -/
theorem gainAfter_of_error {i : Instr} {g : GainCode} {f : CodecFault}
    (h : resultOf i g = .error f) : gainAfter i g = g := by
  obtain ⟨-, c, -, rfl | rfl⟩ | ⟨-, n, hn, rfl⟩ := (resultOf_eq_error_iff i g f).mp h
  · rfl
  · rfl
  · simp [gainAfter, gainValid, Nat.not_le.mpr hn]

/-- A command that computes a fault answers `0x0000` with the fault's status, and does no more. -/
theorem command_of_error {w : Cmd} {i : Instr} {s : State} {f : CodecFault}
    (hdecode : decode w = .ok i) (hresult : resultOf i s.gain = .error f) :
    command w s = .next (s.answer ⟨0x0000, faultStatus f⟩) := by
  rw [command_of_decode hdecode, exec_of_gainAfter_eq (gainAfter_of_error hresult), hresult]
  rfl

theorem commandOutput_of_st_ne_ok {w : Cmd} {g : GainCode} (h : (commandOutput w g).2.st ≠ .ok) :
    commandOutput w g = (g, ⟨0x0000, (commandOutput w g).2.st⟩) := by
  cases hdecode : decode w with
  | error e => rw [commandOutput_of_reject hdecode]
  | ok i =>
    rw [commandOutput_of_decode hdecode, execOutput] at h ⊢
    cases hresult : resultOf i g with
    | ok v =>
      rw [hresult] at h
      exact absurd rfl h
    | error f =>
      rw [gainAfter_of_error hresult]
      rfl

/-- R86: after any response but OK, the state is the old one with that response added. -/
theorem command_answered_fault {w : Cmd} {s t : State} {r : Response} (ht : command w s = .next t)
    (hr : t.answerAfter s = some r) (hst : r.st ≠ .ok) : t = s.answer ⟨0x0000, r.st⟩ := by
  obtain ⟨rfl, rfl⟩ := command_answered ht hr
  rw [commandOutput_of_st_ne_ok hst, State.withGain_self]

end Sys2Proof.Machine
end

section
/-! Support: the responses a session operation receives (R93). Either all of them are OK, or the
operation makes no transaction. -/

namespace Sys2Proof.Machine

/-- The arm operation on a channel above 3: one command and no transaction (R59). -/
theorem startComparatorSingleEnded_of_gt {channel : Word} (hc : 3 < channel.toNat)
    (threshold : Word) (s : State) :
    startComparatorSingleEnded channel threshold s =
      .next ((s.answer ⟨0x0000, .invalidChannel⟩).giveBack .nothing) := by
  have hform : WellFormed (.buildCmp channel.toNat) = true := decide_eq_true channel.isLt
  have hresponse : responseOf (resultOf (.buildCmp channel.toNat) s.gain) =
      ⟨0x0000, .invalidChannel⟩ :=
    congrArg responseOf (cmpArmWord_of_gt_fault hc _ _ s.gain)
  rw [startComparatorSingleEnded, issue_of_gainAfter_eq hform rfl, hresponse, if_pos rfl]

/-- From `s` to `t`, every response was OK. -/
def AnsweredOk (s t : State) : Prop :=
  ∃ rs, t.responses = s.responses ++ rs ∧ ∀ r ∈ rs, r.st = .ok

/-- From `s` to `t`, nothing crossed the bus and nothing happened to the chip. -/
def NoTransaction (s t : State) : Prop := t.bus = s.bus ∧ t.chip = s.chip

variable {s t : State}

theorem AnsweredOk.refl (s : State) : AnsweredOk s s := ⟨[], by simp⟩

/-- Only the responses matter. -/
theorem AnsweredOk.of_eq {u : State} (h : AnsweredOk s t) (hu : u.responses = t.responses) :
    AnsweredOk s u := by
  rwa [AnsweredOk, hu]

protected theorem AnsweredOk.answer (h : AnsweredOk s t) (v : Word) :
    AnsweredOk s (t.answer ⟨v, .ok⟩) := by
  obtain ⟨rs, hrs, hok⟩ := h
  refine ⟨rs ++ [⟨v, .ok⟩], by simp [hrs], fun r hr => ?_⟩
  obtain hr | hr := List.mem_append.mp hr
  · exact hok r hr
  · rw [List.mem_singleton.mp hr]

theorem AnsweredOk.st_eq_ok (h : AnsweredOk s t) {r : Response}
    (hr : r ∈ t.responses.drop s.responses.length) : r.st = .ok := by
  obtain ⟨rs, hrs, hok⟩ := h
  rw [hrs, List.drop_left] at hr
  exact hok r hr

protected theorem AnsweredOk.giveBack (h : AnsweredOk s t) (v : Returned) :
    AllNext (AnsweredOk s) (.next (t.giveBack v)) :=
  allNext_next.mpr (h.of_eq rfl)

/-- A command that computes a result. -/
protected theorem AnsweredOk.issue (h : AnsweredOk s t) (i : Instr) (hi : WellFormed i = true)
    {v : Word} (hresult : resultOf i t.gain = .ok v) {k : Response → State → Out}
    (hk : ∀ u, AnsweredOk s u → AllNext (AnsweredOk s) (k ⟨v, .ok⟩ u)) :
    AllNext (AnsweredOk s) (issue i t k) := by
  rw [issue_eq, commandOutput_of_decode (decode_encode hi), execOutput, hresult]
  exact hk _ ((h.answer v).of_eq rfl)

protected theorem AnsweredOk.regRead (h : AnsweredOk s t) {k : Word → State → Out}
    (hk : ∀ v u, AnsweredOk s u → AllNext (AnsweredOk s) (k v u)) :
    AllNext (AnsweredOk s) (regRead (pointerOf .conversion) t k) := by
  rw [regRead_pointerOf_conversion]
  exact hk _ _ (h.of_eq rfl)

protected theorem AnsweredOk.configureAndRead (h : AnsweredOk s t) (cfg : Word)
    {k : Word → State → Out} (hk : ∀ v u, AnsweredOk s u → AllNext (AnsweredOk s) (k v u)) :
    AllNext (AnsweredOk s) (configureAndRead cfg t k) := by
  have hwaited : AnsweredOk s (waitMs Config.convLatencyMs (afterRegWrite .config cfg t)) :=
    h.of_eq rfl
  rw [configureAndRead, regWrite_pointerOf, andThen_next]
  exact hwaited.regRead hk

protected theorem AnsweredOk.giveUnsigned (h : AnsweredOk s t) (raw : Word) :
    AllNext (AnsweredOk s) (giveUnsigned raw t) :=
  h.issue (.decodeU raw) rfl rfl fun _ hu => hu.giveBack _

protected theorem AnsweredOk.giveSigned (h : AnsweredOk s t) (raw : Word) :
    AllNext (AnsweredOk s) (giveSigned raw t) :=
  h.issue (.decode raw) rfl rfl fun _ hu => hu.giveBack _

/-- A single-ended read of a channel the packer takes. -/
theorem answeredOk_readSingleEnded {channel cfg : Word} {s : State}
    (hcfg : singleEndedWord Config.params s.gain channel.toNat = .ok cfg) :
    AllNext (AnsweredOk s) (readSingleEnded channel s) := by
  have hform : WellFormed (.buildSe channel.toNat) = true := decide_eq_true channel.isLt
  refine (AnsweredOk.refl s).issue _ hform hcfg fun t ht => ?_
  exact ht.configureAndRead _ fun raw _ hu => hu.giveUnsigned raw

/-- The arm operation on a channel the packer takes. -/
theorem answeredOk_startComparatorSingleEnded {channel threshold cfg : Word} {s : State}
    (hcfg : cmpArmWord Config.params s.gain channel.toNat = .ok cfg) :
    AllNext (AnsweredOk s) (startComparatorSingleEnded channel threshold s) := by
  have hanswered : AnsweredOk s ((s.answer ⟨cfg, .ok⟩).answer
      ⟨encodeThreshold Config.params.family threshold, .ok⟩) :=
    ((AnsweredOk.refl s).answer _).answer _
  rw [startComparatorSingleEnded_of_ok hcfg, allNext_next]
  exact hanswered.of_eq rfl

/-- A faulting operation is a read or an arm operation of a channel above 3, which ends there, or a
gain access, which makes no transaction at all (R113). -/
theorem runSession_answeredOk_or_noTransaction (op : SessionOp) (s : State) :
    AllNext (AnsweredOk s) (runSession op s) ∨ AllNext (NoTransaction s) (runSession op s) := by
  have hs := AnsweredOk.refl s
  cases op with
  | readSingleEnded channel =>
    by_cases hc : 3 < channel.toNat
    · refine .inr ?_
      rw [runSession, readSingleEnded_of_gt hc, allNext_next]
      exact ⟨rfl, rfl⟩
    · exact .inl (answeredOk_readSingleEnded (singleEndedWord_of_lt (Nat.lt_of_not_le hc) _ _))
  | readDifferential01 =>
    rw [runSession, readDifferential01]
    exact .inl (hs.issue .buildD01 rfl rfl fun _ ht =>
      ht.configureAndRead _ fun raw _ hu => hu.giveSigned raw)
  | readDifferential23 =>
    rw [runSession, readDifferential23]
    exact .inl (hs.issue .buildD23 rfl rfl fun _ ht =>
      ht.configureAndRead _ fun raw _ hu => hu.giveSigned raw)
  | getLastConversionResults =>
    have hwaited : AnsweredOk s (waitMs Config.convLatencyMs s) := hs.of_eq rfl
    rw [runSession, getLastConversionResults]
    exact .inl (hwaited.regRead fun raw _ ht => ht.giveSigned raw)
  | startComparatorSingleEnded channel threshold =>
    by_cases hc : 3 < channel.toNat
    · refine .inr ?_
      rw [runSession, startComparatorSingleEnded_of_gt hc, allNext_next]
      exact ⟨rfl, rfl⟩
    · exact .inl (answeredOk_startComparatorSingleEnded
        (cmpArmWord_of_lt (Nat.lt_of_not_le hc) _ _))
  | setGain g =>
    refine .inr ?_
    rw [runSession, sessionSetGain, issue_eq, allNext_next]
    exact ⟨rfl, rfl⟩
  | getGain =>
    rw [runSession, sessionGetGain]
    exact .inl (hs.issue .getGain rfl rfl fun _ ht => ht.giveBack _)

end Sys2Proof.Machine
end

section
/-! The obligations about the faults (60_exceptions.md). -/

namespace Sys2Proof.Proofs

open Sys2Proof.Machine

/-- Settles O6: a word does not decode when its operand is not below the number of legal ones of its
opcode, which is what R89 lists. -/
theorem illegalWordsRaise : Obligations.IllegalWordsRaise := by
  intro w
  have harg : w.toNat % 65536 < 65536 := Nat.mod_lt _ (by decide)
  refine ⟨?_, fun ⟨_, he⟩ s => command_of_reject he s⟩
  rw [exists_error_iff, decode_isOk_iff, Nat.not_lt, legalOperands_le_iff harg]

/-- Settles O26: a word that decodes can fault by its operand only, and `resultOf_eq_error_iff` says
which operands do. -/
theorem eachFaultHasItsCause : Obligations.EachFaultHasItsCause := by
  intro w s t r ht hr
  obtain ⟨rfl, -⟩ := command_answered ht hr
  cases hdecode : decode w with
  | error e =>
    rw [commandOutput_of_reject hdecode]
    simp
  | ok i =>
    have hcause (f : CodecFault) :
        (commandOutput w s.gain).2.st = faultStatus f ↔ resultOf i s.gain = .error f := by
      rw [commandOutput_of_decode hdecode]
      exact responseOf_st_eq_faultStatus_iff
    refine ⟨(hcause .illegalCommand).trans ?_, (hcause .invalidChannel).trans ?_,
      (hcause .invalidGain).trans ?_⟩ <;> simp [resultOf_eq_error_iff]

/-- Settles O27: the three causes are a rejected word and the two operands that fault. -/
theorem faultEntryChangesNothing : Obligations.FaultEntryChangesNothing := by
  refine ⟨fun w s t r => command_answered_fault, fun w s =>
    ⟨fun ⟨e, he⟩ => command_of_reject he s, fun c hc hdecode => ?_, fun g hg hdecode => ?_⟩⟩
  · obtain hdecode | hdecode := hdecode
    · exact command_of_error hdecode (singleEndedWord_of_gt hc _ _)
    · exact command_of_error hdecode (cmpArmWord_of_gt_fault hc _ _ _)
  · exact command_of_error hdecode ((resultOf_eq_error_iff _ _ _).mpr (.inr ⟨rfl, g, hg, rfl⟩))

/-- Settles O28: fault entry leaves the gain, and the gain and the word decide all that a command
does. -/
theorem faultsAreNotSticky : Obligations.FaultsAreNotSticky := by
  intro w v s t r ht hr hst
  have hgain : t.gain = s.gain := by rw [command_answered_fault ht hr hst, State.answer_gain]
  refine ⟨(commandOutput v s.gain).2, (commandOutput v s.gain).1, command_eq v s, ?_⟩
  rw [← hgain]
  exact command_eq v t

/-- Settles O55: an operation that received a fault did not receive OK only, so it is one without a
transaction. -/
theorem noTransactionAfterFault : Obligations.NoTransactionAfterFault := by
  intro op s t r ht hr hst
  obtain hok | hquiet := runSession_answeredOk_or_noTransaction op s
  · exact absurd ((hok t ht).st_eq_ok hr) hst
  · exact hquiet t ht

/-- Settles O25. -/
theorem statusBits : Obligations.StatusBits := by
  refine ⟨rfl, rfl, rfl, rfl, fun st => ?_, by decide⟩
  cases st <;> rfl

end Sys2Proof.Proofs
end

section
/-! Support: a single-shot reading at the chip (R29, R107). A `read` profile word starts one
conversion; the wait of the latency ends it, and the read that follows receives its result. -/

namespace Sys2Proof.Machine

/-- A single-shot word with the start flag starts one conversion, no time of it past. -/
theorem chipConfigure_phase_of_start {v : Word} (hmode : readField ads1x15Layout.mode v = 1)
    (hos : readField ads1x15Layout.os v = 1) (draw : Nat) (c : Chip) :
    (chipConfigure ads1x15Layout v draw c).phase = .single 0 := by
  have hsingle : readField ads1x15Layout.mode v ≠ ads1x15Layout.modeContinuous :=
    hmode.trans_ne (by decide)
  exact (if_neg hsingle).trans (if_pos hos)

/-- A conversion is over when its latency has passed. -/
theorem chipWait_phase_of_le {c : Chip} {elapsed latency ms : Nat} (h : c.phase = .single elapsed)
    (hms : latency ≤ elapsed + ms) : (chipWait latency ms c).phase = .idle := by
  simp [chipWait, h, hms]

/-- The three fields by which a profile starts conversions and arms the comparator (R46). -/
theorem readField_buildConfig_os_mode_cque (g : GainCode) (sel : InputSel) (p : Profile) :
    readField ads1x15Layout.os (buildConfig ads1x15Layout g sel p) = osCode ads1x15Layout p ∧
    readField ads1x15Layout.mode (buildConfig ads1x15Layout g sel p) =
      modeCode ads1x15Layout p ∧
    readField ads1x15Layout.cque (buildConfig ads1x15Layout g sel p) =
      cqueCode ads1x15Layout p := by
  have hfields := readField_buildConfig_ads1x15 g sel p
  simp only [layoutRanges, configFields, List.map_cons, List.cons.injEq] at hfields
  obtain ⟨hos, -, -, hmode, -, -, -, -, hcque, -⟩ := hfields
  exact ⟨hos, hmode, hcque⟩

/-- The state after a configuration word, a wait of the latency and a conversion read that received
the conversion's result (R107). The write takes one draw, the result is the next one. -/
def afterConversion (cfg : Word) (s : State) : State :=
  afterRegRead (Config.conversionResult (s.draws + 1))
    (waitMs Config.convLatencyMs (afterRegWrite .config cfg s))

variable (g : GainCode) (sel : InputSel) (s : State)

/-- The wait of the latency ends the conversion the word started (R29). -/
theorem waitMs_afterRegWrite_read_phase :
    (waitMs Config.convLatencyMs
      (afterRegWrite .config (buildConfig ads1x15Layout g sel .read) s)).chip.phase = .idle := by
  obtain ⟨hos, hmode, -⟩ := readField_buildConfig_os_mode_cque g sel .read
  have hstarted := chipConfigure_phase_of_start hmode hos s.draws
    { s.chip with pointer := pointerOf .config }
  exact chipWait_phase_of_le hstarted (Nat.le_add_left _ _)

/-- The conversion wait is kept: what is read is the conversion's result, never an early value. -/
theorem configureAndRead_buildConfig_read (k : Word → State → Out) :
    configureAndRead (buildConfig ads1x15Layout g sel .read) s k =
      k (Config.conversionResult (s.draws + 1))
        (afterConversion (buildConfig ads1x15Layout g sel .read) s) := by
  have hidle := waitMs_afterRegWrite_read_phase g sel s
  have hconfigured : (waitMs Config.convLatencyMs
      (afterRegWrite .config (buildConfig ads1x15Layout g sel .read) s)).chip.configured = true :=
    chipWait_configured _ _ _
  have hresult (draw : Nat) : conversionAnswer Config.convLatencyMs (waitMs Config.convLatencyMs
      (afterRegWrite .config (buildConfig ads1x15Layout g sel .read) s)).chip draw =
        Config.conversionResult draw := by
    rw [conversionAnswer_eq, if_pos ⟨hconfigured, by rw [remainingMs, hidle]⟩]
  rw [configureAndRead, regWrite_pointerOf, andThen_next, regRead_pointerOf_conversion, hresult]
  rfl

theorem afterConversion_phase :
    (afterConversion (buildConfig ads1x15Layout g sel .read) s).chip.phase = .idle :=
  waitMs_afterRegWrite_read_phase g sel s

theorem afterConversion_config (cfg : Word) : (afterConversion cfg s).chip.config = cfg :=
  chipWait_config _ _ _

end Sys2Proof.Machine
end

section
/-! Support: each session operation by the one next state it answers (R109 to R113). The operations
on a channel above 3 are `readSingleEnded_of_gt` and `startComparatorSingleEnded_of_gt`. -/

namespace Sys2Proof.Machine

/-- The host goes on with the response of the command it issued. -/
theorem issue_of_exec {i : Instr} (hi : WellFormed i = true) {s t : State} {r : Response}
    (hexec : exec i s = .next t) (hr : t.answerAfter s = some r) (k : Response → State → Out) :
    issue i s k = k r t := by
  simp only [issue, command_of_decode (decode_encode hi), hexec, andThen_next, hr]

theorem giveUnsigned_eq (raw : Word) (s : State) :
    giveUnsigned raw s = .next ((s.answer ⟨decodeUnsigned Config.family raw, .ok⟩).giveBack
      (.unsignedSample (raw.toNat / 2 ^ shiftWidth Config.family))) := by
  rw [giveUnsigned, issue_of_gainAfter_eq rfl rfl, ← decodeUnsigned_toNat]
  rfl

theorem giveSigned_eq (raw : Word) (s : State) :
    giveSigned raw s = .next ((s.answer ⟨decodeSample Config.family raw, .ok⟩).giveBack
      (.signedSample ((toInt16 raw).fdiv (2 ^ shiftWidth Config.family)))) := by
  rw [giveSigned, issue_of_gainAfter_eq rfl rfl, ← toInt16_decodeSample]
  rfl

/-- The state after a reading: the word packed, the conversion read, its raw value unpacked to `res`
and a sample given back. -/
def afterReading (cfg res : Word) (sample : Returned) (s : State) : State :=
  ((afterConversion cfg (s.answer ⟨cfg, .ok⟩)).answer ⟨res, .ok⟩).giveBack sample

section
variable (cfg res : Word) (sample : Returned) (s : State)

theorem afterReading_bus : (afterReading cfg res sample s).bus =
    s.bus ++ regWriteOps (pointerOf .config) cfg ++ [.waitMilliseconds Config.convLatencyMs] ++
      regReadOps (pointerOf .conversion) (Config.conversionResult (s.draws + 1)) := by
  simp [afterReading, afterConversion]

theorem afterReading_responses :
    (afterReading cfg res sample s).responses = s.responses ++ [⟨cfg, .ok⟩, ⟨res, .ok⟩] := by
  simp [afterReading, afterConversion]

theorem afterReading_returned :
    (afterReading cfg res sample s).returned = s.returned ++ [sample] := by
  simp [afterReading, afterConversion]

theorem afterReading_gain : (afterReading cfg res sample s).gain = s.gain := by
  simp [afterReading, afterConversion]

theorem afterReading_inbox : (afterReading cfg res sample s).inbox = s.inbox := by
  simp [afterReading, afterConversion]

theorem afterReading_chip :
    (afterReading cfg res sample s).chip = (afterConversion cfg (s.answer ⟨cfg, .ok⟩)).chip := by
  simp [afterReading]

end

/-- The state after a reading whose sample is signed. -/
def afterSignedReading (sel : InputSel) (s : State) : State :=
  afterReading (buildConfig ads1x15Layout s.gain sel .read)
    (decodeSample Config.family (Config.conversionResult (s.draws + 1)))
    (.signedSample ((toInt16 (Config.conversionResult (s.draws + 1))).fdiv
      (2 ^ shiftWidth Config.family))) s

/-- The single-ended read of a channel (R109). -/
theorem readSingleEnded_of_le {channel : Word} (hc : channel.toNat < 4) (s : State) :
    readSingleEnded channel s = .next (afterReading
      (buildConfig ads1x15Layout s.gain (.ch ⟨channel.toNat, hc⟩) .read)
      (decodeUnsigned Config.family (Config.conversionResult (s.draws + 1)))
      (.unsignedSample
        ((Config.conversionResult (s.draws + 1)).toNat / 2 ^ shiftWidth Config.family)) s) := by
  have hform : WellFormed (.buildSe channel.toNat) = true := decide_eq_true channel.isLt
  have hresponse : responseOf (resultOf (.buildSe channel.toNat) s.gain) =
      ⟨buildConfig ads1x15Layout s.gain (.ch ⟨channel.toNat, hc⟩) .read, .ok⟩ :=
    congrArg responseOf (singleEndedWord_of_lt hc Config.params s.gain)
  rw [readSingleEnded, issue_of_gainAfter_eq hform rfl, hresponse, if_neg nofun,
    configureAndRead_buildConfig_read, giveUnsigned_eq]
  rfl

/-- A packer's word, the conversion it starts and its signed sample: what both differential reads
are (R110). -/
theorem issue_signedReading {i : Instr} (hi : WellFormed i = true) {sel : InputSel} {s : State}
    (hgain : gainAfter i s.gain = s.gain)
    (hresult : resultOf i s.gain = .ok (buildConfig ads1x15Layout s.gain sel .read)) :
    (issue i s fun cfg t => configureAndRead cfg.res t giveSigned) =
      .next (afterSignedReading sel s) := by
  rw [issue_of_gainAfter_eq hi hgain, hresult, responseOf, configureAndRead_buildConfig_read,
    giveSigned_eq]
  rfl

theorem readDifferential01_eq (s : State) :
    readDifferential01 s = .next (afterSignedReading .pair01 s) :=
  issue_signedReading rfl rfl rfl

theorem readDifferential23_eq (s : State) :
    readDifferential23 s = .next (afterSignedReading .pair23 s) :=
  issue_signedReading rfl rfl rfl

/-- Each of the three readings of a valid channel ends in the same way. -/
theorem runSession_reading {channel : Word} (hc : channel.toNat < 4) {op : SessionOp}
    (hop : op ∈ [SessionOp.readSingleEnded channel, .readDifferential01, .readDifferential23])
    (s : State) : ∃ sel res sample, runSession op s =
      .next (afterReading (buildConfig ads1x15Layout s.gain sel .read) res sample s) := by
  simp only [List.mem_cons, List.not_mem_nil, or_false] at hop
  obtain rfl | rfl | rfl := hop
  · exact ⟨_, _, _, readSingleEnded_of_le hc s⟩
  · exact ⟨_, _, _, readDifferential01_eq s⟩
  · exact ⟨_, _, _, readDifferential23_eq s⟩

/-- The state after the comparator has been armed: the two commands answered, the threshold written
and then the configuration word (R112). -/
def afterArming (cfg thr : Word) (s : State) : State :=
  (afterRegWrite .config cfg (afterRegWrite .highThreshold thr
    ((s.answer ⟨cfg, .ok⟩).answer ⟨thr, .ok⟩))).giveBack .nothing

section
variable (cfg thr : Word) (s : State)

theorem afterArming_bus : (afterArming cfg thr s).bus =
    s.bus ++ regWriteOps (pointerOf .highThreshold) thr ++ regWriteOps (pointerOf .config) cfg := by
  simp [afterArming]

theorem afterArming_responses :
    (afterArming cfg thr s).responses = s.responses ++ [⟨cfg, .ok⟩, ⟨thr, .ok⟩] := by
  simp [afterArming]

theorem afterArming_returned : (afterArming cfg thr s).returned = s.returned ++ [.nothing] := by
  simp [afterArming]

theorem afterArming_gain : (afterArming cfg thr s).gain = s.gain := by
  simp [afterArming]

theorem afterArming_inbox : (afterArming cfg thr s).inbox = s.inbox := by
  simp [afterArming]

theorem afterArming_chip : (afterArming cfg thr s).chip =
    chipWrite ads1x15Layout .config cfg (s.draws + 1)
      (chipWrite ads1x15Layout .highThreshold thr s.draws s.chip) := by
  simp [afterArming]

end

/-- The arm operation on a channel (R112). -/
theorem startComparatorSingleEnded_of_le {channel : Word} (hc : channel.toNat < 4)
    (threshold : Word) (s : State) :
    startComparatorSingleEnded channel threshold s = .next (afterArming
      (buildConfig ads1x15Layout s.gain (.ch ⟨channel.toNat, hc⟩) .cmpArm)
      (encodeThreshold Config.family threshold) s) :=
  startComparatorSingleEnded_of_ok (cmpArmWord_of_lt hc Config.params s.gain)

/-- The last conversion's result, read again after a wait, without a configuration word (R111). -/
theorem getLastConversionResults_eq (s : State) :
    ∃ raw, getLastConversionResults s =
      .next (((afterRegRead raw (waitMs Config.convLatencyMs s)).answer
        ⟨decodeSample Config.family raw, .ok⟩).giveBack
          (.signedSample ((toInt16 raw).fdiv (2 ^ shiftWidth Config.family)))) := by
  refine ⟨conversionAnswer Config.convLatencyMs (waitMs Config.convLatencyMs s).chip
    (waitMs Config.convLatencyMs s).draws, ?_⟩
  rw [getLastConversionResults, regRead_pointerOf_conversion, giveSigned_eq]

theorem sessionSetGain_of_le {g : GainCode} (hg : g.toNat ≤ 5) (s : State) :
    sessionSetGain g s = .next (((s.withGain g).answer ⟨zext16 g, .ok⟩).giveBack .nothing) :=
  issue_of_exec rfl (exec_setGain_of_le hg s) (State.answerAfter_withGain_answer s g _) _

theorem sessionSetGain_of_gt {g : GainCode} (hg : 5 < g.toNat) (s : State) :
    sessionSetGain g s = .next ((s.answer ⟨0x0000, .invalidGain⟩).giveBack .nothing) :=
  issue_of_exec rfl (exec_setGain_of_gt hg s) (State.answerAfter_answer s _) _

theorem sessionGetGain_eq (s : State) :
    sessionGetGain s = .next ((s.answer ⟨zext16 s.gain, .ok⟩).giveBack (.gain (zext16 s.gain))) :=
  issue_of_exec rfl (exec_getGain s) (State.answerAfter_answer s _) _

end Sys2Proof.Machine
end

section
/-! Support: progress (93 Part 1). An offered event has a next state and leaves the events to come
as they are, so a step takes one of them and a run can go on. -/

namespace Sys2Proof.Machine

/-- Every session operation completes. -/
theorem runSession_next (op : SessionOp) (s : State) :
    ∃ t, runSession op s = .next t ∧ t.inbox = s.inbox := by
  cases op with
  | readSingleEnded channel =>
    obtain hc | hc := Nat.lt_or_ge 3 channel.toNat
    · exact ⟨_, readSingleEnded_of_gt hc s, rfl⟩
    · exact ⟨_, readSingleEnded_of_le (Nat.lt_succ_of_le hc) s, afterReading_inbox _ _ _ s⟩
  | readDifferential01 => exact ⟨_, readDifferential01_eq s, afterReading_inbox _ _ _ s⟩
  | readDifferential23 => exact ⟨_, readDifferential23_eq s, afterReading_inbox _ _ _ s⟩
  | getLastConversionResults =>
    obtain ⟨raw, hrun⟩ := getLastConversionResults_eq s
    exact ⟨_, hrun, by simp⟩
  | startComparatorSingleEnded channel threshold =>
    obtain hc | hc := Nat.lt_or_ge 3 channel.toNat
    · exact ⟨_, startComparatorSingleEnded_of_gt hc threshold s, rfl⟩
    · exact ⟨_, startComparatorSingleEnded_of_le (Nat.lt_succ_of_le hc) threshold s,
        afterArming_inbox _ _ s⟩
  | setGain g => exact ⟨_, issue_eq (.setGain g) s _, rfl⟩
  | getGain => exact ⟨_, sessionGetGain_eq s, rfl⟩

/-- Every offered event is handled: only the accesses of R22 and R27 are refused. -/
theorem handle_next_of_offered {e : HostEvent} (he : offered e = true) (s : State) :
    ∃ t, handle e s = .next t ∧ t.inbox = s.inbox := by
  cases e with
  | command w => exact ⟨_, command_eq w s, rfl⟩
  | reset cause => exact ⟨_, rfl, rfl⟩
  | regWrite ptr v =>
    obtain ⟨r, hr⟩ := Option.isSome_iff_exists.mp he
    exact ⟨_, regWrite_next hr v s, rfl⟩
  | regRead ptr =>
    obtain rfl := pointerOf_registerOf (beq_iff_eq.mp he)
    exact ⟨_, handle_regRead_conversion s, rfl⟩
  | wait ms => exact ⟨_, rfl, rfl⟩
  | session op => exact runSession_next op s
  | alertLatches => exact ⟨_, rfl, rfl⟩
  | chipPowerCycle => exact ⟨_, rfl, rfl⟩

/-- A step has a next state and takes the first event, if there is one. -/
theorem step_next_of_offered {s : State} (hs : ∀ e ∈ s.inbox, offered e = true) :
    ∃ t, step s = .next t ∧ t.inbox = s.inbox.drop 1 := by
  obtain ⟨hidle, hstep⟩ | ⟨e, rest, hinbox, hstep⟩ := step_cases s
  · exact ⟨s, hstep, by rw [hidle, List.drop_nil]⟩
  · rw [hinbox] at hs
    obtain ⟨he, -⟩ := List.forall_mem_cons.mp hs
    obtain ⟨t, ht, hrest⟩ := handle_next_of_offered he (s.withInbox rest)
    exact ⟨t, hstep.trans ht, by rw [hrest, hinbox]; rfl⟩

/-- A run of `n` steps has a next state and takes the first `n` events. -/
theorem run_next_of_offered (n : Nat) {s : State} (hs : ∀ e ∈ s.inbox, offered e = true) :
    ∃ t, Host.Core.run Sys2Proof.core n s = .next t ∧ t.inbox = s.inbox.drop n := by
  induction n generalizing s with
  | zero => exact ⟨s, rfl, rfl⟩
  | succ n ih =>
    obtain ⟨t, hstep, hinbox⟩ := step_next_of_offered hs
    have ht : ∀ e ∈ t.inbox, offered e = true := fun e he =>
      hs e (List.mem_of_mem_drop (hinbox ▸ he))
    obtain ⟨u, hrun, hleft⟩ := ih ht
    refine ⟨u, (run_of_step_next hstep n).trans hrun, ?_⟩
    rw [hleft, hinbox, List.drop_drop, Nat.add_comm]

end Sys2Proof.Machine
end

section
/-! The obligations about reset and the host's sequences (70_reset_and_hazards.md). -/

namespace Sys2Proof.Proofs

open Sys2Proof.Machine

/-- Settles O41, by induction on the steps: every offered event is handled and leaves the events to
come alone, so what is left is offered again. -/
theorem runsOverOfferedEventsNeverStop : Obligations.RunsOverOfferedEventsNeverStop :=
  fun n _ hs => run_next_of_offered n hs

/-- Settles O49: the read of a valid channel ends in `afterReading`; above 3 it ends at the fault. -/
theorem readSingleEndedSequence : Obligations.ReadSingleEndedSequence := by
  refine fun channel s => ⟨fun hc => ?_, fun hc => readSingleEnded_of_gt hc s⟩
  have hcfg := buildConfig_ch_eq_or s.gain ⟨channel.toNat, Nat.lt_succ_of_le hc⟩ .read
  rw [BitVec.ofNat_toNat, BitVec.setWidth_eq] at hcfg
  exact ⟨_, _, _, readSingleEnded_of_le (Nat.lt_succ_of_le hc) s, hcfg, afterReading_bus _ _ _ s,
    afterReading_responses _ _ _ s, afterReading_returned _ _ _ s, afterReading_gain _ _ _ s⟩

/-- Settles O50: both operations end in `afterSignedReading`, each on its own pair. -/
theorem readDifferentialSequences : Obligations.ReadDifferentialSequences := by
  intro s op hop
  obtain ⟨sel, hrun, hcfg⟩ : ∃ sel, runSession op.1 s = .next (afterSignedReading sel s) ∧
      buildConfig ads1x15Layout s.gain sel .read = op.2 ||| lsl16 (zext16 s.gain) 9 := by
    simp only [List.mem_cons, List.not_mem_nil, or_false] at hop
    obtain rfl | rfl := hop
    · exact ⟨.pair01, readDifferential01_eq s, buildConfig_eq_or s.gain .pair01 .read⟩
    · exact ⟨.pair23, readDifferential23_eq s, buildConfig_eq_or s.gain .pair23 .read⟩
  exact ⟨_, _, _, hrun, hcfg, afterReading_bus _ _ _ s, afterReading_responses _ _ _ s,
    afterReading_returned _ _ _ s, afterReading_gain _ _ _ s⟩

/-- Settles O52: the equation of the arm operation read off field by field; the word is one of the
continuous profile. -/
theorem startComparatorSequence : Obligations.StartComparatorSequence := by
  refine ⟨fun channel threshold s => ⟨fun hc => ?_, fun hc =>
    startComparatorSingleEnded_of_gt hc threshold s⟩, fun family g c => ?_⟩
  · have hlt : channel.toNat < 4 := Nat.lt_succ_of_le hc
    have hcfg := buildConfig_ch_eq_or s.gain ⟨channel.toNat, hlt⟩ .cmpArm
    rw [BitVec.ofNat_toNat, BitVec.setWidth_eq] at hcfg
    obtain ⟨-, hmode, -⟩ :=
      readField_buildConfig_os_mode_cque s.gain (.ch ⟨channel.toNat, hlt⟩) .cmpArm
    refine ⟨_, _, _, startComparatorSingleEnded_of_le hlt threshold s, hcfg, rfl,
      afterArming_bus _ _ s, afterArming_responses _ _ s, afterArming_returned _ _ s, ?_⟩
    rw [afterArming_chip, afterArming_gain]
    exact ⟨rfl, rfl, rfl, chipConfigure_phase_of_continuous hmode _ _, rfl⟩
  · obtain hc | hc := Nat.lt_or_ge 3 c
    · exact ⟨_, cmpArmWord_of_gt_legacyUnset hc family _ g⟩
    · exact ⟨_, cmpArmWord_of_lt (Nat.lt_succ_of_le hc) _ g⟩

/-- Settles O53: `configureAndRead_buildConfig_read` is why `afterReading` logs the result itself. -/
theorem readingsKeepTheConversionWait : Obligations.ReadingsKeepTheConversionWait := by
  intro channel s hc op hop
  obtain ⟨sel, res, sample, hrun⟩ := runSession_reading (Nat.lt_succ_of_le hc) hop s
  exact ⟨_, _, hrun, afterReading_bus _ res sample s⟩

/-- Settles O56: the word written is one of the `read` profile, and it stays in the config register
while the wait ends its conversion. -/
theorem readingDisarmsComparator : Obligations.ReadingDisarmsComparator := by
  intro channel s hc op hop
  obtain ⟨sel, res, sample, hrun⟩ := runSession_reading (Nat.lt_succ_of_le hc) hop s
  obtain ⟨-, hmode, hcque⟩ := readField_buildConfig_os_mode_cque s.gain sel .read
  refine ⟨_, hrun, ?_⟩
  rw [afterReading_chip, afterConversion_config, hmode, hcque, afterConversion_phase]
  exact ⟨rfl, rfl, rfl⟩

/-- Settles O57: the word in the config register was packed with the gain before `SETGAIN`, which
writes the codec only. -/
theorem armedGainIsStale : Obligations.ArmedGainIsStale := by
  intro channel threshold g s hc hg
  have hlt : channel.toNat < 4 := Nat.lt_succ_of_le hc
  obtain ⟨-, hpga, -⟩ :=
    readField_buildConfig_mux_pga_mode_dr s.gain (.ch ⟨channel.toNat, hlt⟩) .cmpArm
  refine ⟨_, _, startComparatorSingleEnded_of_le hlt threshold s, sessionSetGain_of_le hg _, ?_⟩
  simp only [State.giveBack_chip, State.answer_chip, State.withGain_chip, afterArming_chip]
  exact ⟨hpga, rfl, rfl⟩

/-- Settles O1. -/
theorem resetLeavesWidestGain : Obligations.ResetLeavesWidestGain :=
  ⟨rfl, rfl, fun _ s => congrArg Host.Outcome.next (resetCodec_eq s)⟩

/-- Settles O51: the read clears a latched alert, and neither wait nor read writes the config
register. -/
theorem getLastConversionSequence : Obligations.GetLastConversionSequence := by
  intro s
  obtain ⟨raw, hrun⟩ := getLastConversionResults_eq s
  refine ⟨_, raw, hrun, ?_⟩
  simp [chipReadConversion, pointerOf]

/-- Settles O54. -/
theorem sessionGainAccess : Obligations.SessionGainAccess :=
  fun s _ => ⟨fun hg => sessionSetGain_of_le hg s, fun hg => sessionSetGain_of_gt hg s,
    sessionGetGain_eq s⟩

end Sys2Proof.Proofs
end
